-- ==== Sys2Proof/Word.lean ====
section
/-! DEFINITION. The words of the machine (00_scope.md R10, R11): a nibble field, a byte, a 12-bit address immediate and a 16-bit register. -/

namespace Sys2Proof

/-- A 4-bit field of an instruction: `x`, `y` or `n` (30_encoding.md R92). -/
abbrev Nibble := BitVec 4

/-- A memory byte, a `V` register or a timer (00_scope.md R5, `REG_W`). -/
abbrev Byte := BitVec 8

/-- The address immediate `nnn` (30_encoding.md R96). -/
abbrev Imm12 := BitVec 12

/-- `I`, `PC`, a stack slot or an instruction word (00_scope.md R5, `ADDR_REG_W`). -/
abbrev Word := BitVec 16

end Sys2Proof
end

