-- ==== Sys2Proof/Syntax.lean ====
section
/-! DEFINITION. The instructions: one constructor for each row of spec/opcode_table.json, with the fields its format lists (30_encoding.md R93, R98). -/

namespace Sys2Proof

/-- The 34 instructions and the `UNKNOWN` descriptor (30_encoding.md R98). -/
inductive Instr where
  /-- `00E0`: clear the framebuffer. -/
  | cls
  /-- `00EE`: return from subroutine. -/
  | ret
  /-- `1nnn`: jump. -/
  | jp (nnn : Imm12)
  /-- `2nnn`: call subroutine. -/
  | call (nnn : Imm12)
  /-- `3xnn`: skip if `Vx` equals the immediate. -/
  | skipEqImm (x : Nibble) (nn : Byte)
  /-- `4xnn`: skip if `Vx` differs from the immediate. -/
  | skipNeImm (x : Nibble) (nn : Byte)
  /-- `5xy0`: skip if `Vx` equals `Vy`. -/
  | skipEqReg (x y : Nibble)
  /-- `6xnn`: load immediate. -/
  | ldImm (x : Nibble) (nn : Byte)
  /-- `7xnn`: add immediate, no flag. -/
  | addImm (x : Nibble) (nn : Byte)
  /-- `8xy0`: copy register. -/
  | ldReg (x y : Nibble)
  /-- `8xy1`: bitwise OR. -/
  | orReg (x y : Nibble)
  /-- `8xy2`: bitwise AND. -/
  | andReg (x y : Nibble)
  /-- `8xy3`: bitwise XOR. -/
  | xorReg (x y : Nibble)
  /-- `8xy4`: add with carry out. -/
  | addReg (x y : Nibble)
  /-- `8xy5`: subtract. -/
  | subReg (x y : Nibble)
  /-- `8xy6`: shift right by one. -/
  | shr (x y : Nibble)
  /-- `8xy7`: reverse subtract. -/
  | subnReg (x y : Nibble)
  /-- `8xyE`: shift left by one. -/
  | shl (x y : Nibble)
  /-- `9xy0`: skip if `Vx` differs from `Vy`. -/
  | skipNeReg (x y : Nibble)
  /-- `Annn`: load index register. -/
  | ldI (nnn : Imm12)
  /-- `Bnnn`: jump with offset `V0`. -/
  | jpV0 (nnn : Imm12)
  /-- `Cxnn`: random byte under mask. -/
  | rnd (x : Nibble) (nn : Byte)
  /-- `Dxyn`: draw a sprite of `n` rows. -/
  | drw (x y n : Nibble)
  /-- `Ex9E`: skip if the key is down. -/
  | skipKey (x : Nibble)
  /-- `ExA1`: skip if the key is up. -/
  | skipNotKey (x : Nibble)
  /-- `Fx07`: read the delay timer. -/
  | readDelay (x : Nibble)
  /-- `Fx0A`: wait for a key release. -/
  | waitKey (x : Nibble)
  /-- `Fx15`: write the delay timer. -/
  | writeDelay (x : Nibble)
  /-- `Fx18`: write the sound timer. -/
  | writeSound (x : Nibble)
  /-- `Fx1E`: add register to index. -/
  | addI (x : Nibble)
  /-- `Fx29`: point `I` at a font glyph. -/
  | ldGlyph (x : Nibble)
  /-- `Fx33`: store binary-coded decimal. -/
  | storeBcd (x : Nibble)
  /-- `Fx55`: store registers `V0..Vx`. -/
  | storeRegs (x : Nibble)
  /-- `Fx65`: load registers `V0..Vx`. -/
  | loadRegs (x : Nibble)
  /-- `UNKNOWN`: the unassigned word `w`, a no-op. -/
  | unknown (w : Word)
  deriving DecidableEq, Repr

/-- The instruction's `mnemonic` in spec/opcode_table.json. -/
def Instr.mnemonic : Instr → String
  | .cls => "00E0"
  | .ret => "00EE"
  | .jp _ => "1nnn"
  | .call _ => "2nnn"
  | .skipEqImm _ _ => "3xnn"
  | .skipNeImm _ _ => "4xnn"
  | .skipEqReg _ _ => "5xy0"
  | .ldImm _ _ => "6xnn"
  | .addImm _ _ => "7xnn"
  | .ldReg _ _ => "8xy0"
  | .orReg _ _ => "8xy1"
  | .andReg _ _ => "8xy2"
  | .xorReg _ _ => "8xy3"
  | .addReg _ _ => "8xy4"
  | .subReg _ _ => "8xy5"
  | .shr _ _ => "8xy6"
  | .subnReg _ _ => "8xy7"
  | .shl _ _ => "8xyE"
  | .skipNeReg _ _ => "9xy0"
  | .ldI _ => "Annn"
  | .jpV0 _ => "Bnnn"
  | .rnd _ _ => "Cxnn"
  | .drw _ _ _ => "Dxyn"
  | .skipKey _ => "Ex9E"
  | .skipNotKey _ => "ExA1"
  | .readDelay _ => "Fx07"
  | .waitKey _ => "Fx0A"
  | .writeDelay _ => "Fx15"
  | .writeSound _ => "Fx18"
  | .addI _ => "Fx1E"
  | .ldGlyph _ => "Fx29"
  | .storeBcd _ => "Fx33"
  | .storeRegs _ => "Fx55"
  | .loadRegs _ => "Fx65"
  | .unknown _ => "UNKNOWN"

end Sys2Proof
end

