-- ==== Sys2Proof/WellFormed.lean ====
section
/-! DEFINITION. Which instruction terms are well formed. Every field has the width of its bits, so one check remains: an `UNKNOWN` descriptor holds an unassigned word (30_encoding.md R102). -/

namespace Sys2Proof

/-- The `UNKNOWN` space as 30_encoding.md R102 tables it, by major opcode. -/
def inUnknownSpace (w : Word) : Bool :=
  match (w.extractLsb' 12 4).toNat with
  | 0x0 => w != 0x00E0 && w != 0x00EE
  | 0x5 => w.extractLsb' 0 4 != 0x0
  | 0x8 => [0x8, 0x9, 0xA, 0xB, 0xC, 0xD, 0xF].contains (w.extractLsb' 0 4).toNat
  | 0x9 => w.extractLsb' 0 4 != 0x0
  | 0xE => !([0x9E, 0xA1].contains (w.extractLsb' 0 8).toNat)
  | 0xF => !([0x07, 0x0A, 0x15, 0x18, 0x1E, 0x29, 0x33, 0x55, 0x65].contains (w.extractLsb' 0 8).toNat)
  | _ => false

/-- An instruction term is well formed: only `unknown` has a check. -/
def Instr.wf : Instr → Bool
  | .unknown w => inUnknownSpace w
  | _ => true

end Sys2Proof
end

