-- ==== Sys2Proof/Decode.lean ====
section
/-! DEFINITION. The decoder, total on words and on byte strings (30_encoding.md R90 to R103), the opcode rows of R98, and the encoder written from the same formats (R93). -/

namespace Sys2Proof

/-- `op`, bits 15..12 (R92). -/
def fieldOp (w : Word) : Nibble := w.extractLsb' 12 4

/-- `x`, bits 11..8 (R92). -/
def fieldX (w : Word) : Nibble := w.extractLsb' 8 4

/-- `y`, bits 7..4 (R92). -/
def fieldY (w : Word) : Nibble := w.extractLsb' 4 4

/-- `n`, bits 3..0 (R92). -/
def fieldN (w : Word) : Nibble := w.extractLsb' 0 4

/-- `nn`, bits 7..0 (R92). -/
def fieldNn (w : Word) : Byte := w.extractLsb' 0 8

/-- `nnn`, bits 11..0 (R92). -/
def fieldNnn (w : Word) : Imm12 := w.extractLsb' 0 12

/-- The words with `op = 8`, selected by `n` (R99). -/
def decodeEight (w : Word) : Instr :=
  let x := fieldX w
  let y := fieldY w
  match (fieldN w).toNat with
  | 0x0 => .ldReg x y
  | 0x1 => .orReg x y
  | 0x2 => .andReg x y
  | 0x3 => .xorReg x y
  | 0x4 => .addReg x y
  | 0x5 => .subReg x y
  | 0x6 => .shr x y
  | 0x7 => .subnReg x y
  | 0xE => .shl x y
  | _ => .unknown w

/-- The words with `op = E`, selected by the whole low byte (R99). -/
def decodeKeys (w : Word) : Instr :=
  match (fieldNn w).toNat with
  | 0x9E => .skipKey (fieldX w)
  | 0xA1 => .skipNotKey (fieldX w)
  | _ => .unknown w

/-- The words with `op = F`, selected by the whole low byte (R99). -/
def decodeMisc (w : Word) : Instr :=
  let x := fieldX w
  match (fieldNn w).toNat with
  | 0x07 => .readDelay x
  | 0x0A => .waitKey x
  | 0x15 => .writeDelay x
  | 0x18 => .writeSound x
  | 0x1E => .addI x
  | 0x29 => .ldGlyph x
  | 0x33 => .storeBcd x
  | 0x55 => .storeRegs x
  | 0x65 => .loadRegs x
  | _ => .unknown w

/-- `Decode` (R100): pure and total, every word gives one of the 34 instructions or `UNKNOWN`. The last arm is `op = F`. -/
def decodeWord (w : Word) : Instr :=
  match (fieldOp w).toNat with
  | 0x0 => if w = 0x00E0 then .cls else if w = 0x00EE then .ret else .unknown w
  | 0x1 => .jp (fieldNnn w)
  | 0x2 => .call (fieldNnn w)
  | 0x3 => .skipEqImm (fieldX w) (fieldNn w)
  | 0x4 => .skipNeImm (fieldX w) (fieldNn w)
  | 0x5 => if fieldN w = 0 then .skipEqReg (fieldX w) (fieldY w) else .unknown w
  | 0x6 => .ldImm (fieldX w) (fieldNn w)
  | 0x7 => .addImm (fieldX w) (fieldNn w)
  | 0x8 => decodeEight w
  | 0x9 => if fieldN w = 0 then .skipNeReg (fieldX w) (fieldY w) else .unknown w
  | 0xA => .ldI (fieldNnn w)
  | 0xB => .jpV0 (fieldNnn w)
  | 0xC => .rnd (fieldX w) (fieldNn w)
  | 0xD => .drw (fieldX w) (fieldY w) (fieldN w)
  | 0xE => decodeKeys w
  | _ => decodeMisc w

/-- Why a byte string holds no instruction. -/
inductive DecodeError where
  /-- Fewer than the two bytes of an instruction (R90). -/
  | tooShort
  deriving DecidableEq, Repr

/-- The word of two bytes: the byte at the lower address is the high byte (20_memory.md R64). -/
def wordOfBytes (hi lo : Byte) : Word := hi ++ lo

/-- The first instruction of a byte string and the bytes after it. -/
def decodeBytes : List Byte → Except DecodeError (Instr × List Byte)
  | hi :: lo :: rest => .ok (decodeWord (wordOfBytes hi lo), rest)
  | _ => .error .tooShort

/-- The bytes of a word in memory order, high byte first (20_memory.md R64). -/
def bytesOfWord (w : Word) : List Byte := [w.extractLsb' 8 8, w.extractLsb' 0 8]

/-- The word whose low `nbits` bits are those of `w` and whose bits above are 0, in the numbering of spec/opcode_table.json. -/
def tableWord (nbits w : Nat) : Word := BitVec.ofNat 16 (w % 2 ^ nbits)

/-- What the decoder reads from an opcode-table word: the word laid out as the hardware stores it, then decoded. -/
def decodeTableWord (nbits w : Nat) : Option Instr :=
  match decodeBytes (bytesOfWord (tableWord nbits w)) with
  | .ok (i, _) => some i
  | .error _ => none

/-- A row of the opcode map: a word `w` selects it when `w & mask = bits` (R98, where `bits` is called `match`). -/
structure OpcodeRow where
  mnemonic : String
  bits : Word
  mask : Word
  deriving DecidableEq, Repr

/-- The 34 assigned rows of R98. -/
def opcodeRows : List OpcodeRow :=
  [{ mnemonic := "00E0", bits := 0x00E0, mask := 0xFFFF },
   { mnemonic := "00EE", bits := 0x00EE, mask := 0xFFFF },
   { mnemonic := "1nnn", bits := 0x1000, mask := 0xF000 },
   { mnemonic := "2nnn", bits := 0x2000, mask := 0xF000 },
   { mnemonic := "3xnn", bits := 0x3000, mask := 0xF000 },
   { mnemonic := "4xnn", bits := 0x4000, mask := 0xF000 },
   { mnemonic := "5xy0", bits := 0x5000, mask := 0xF00F },
   { mnemonic := "6xnn", bits := 0x6000, mask := 0xF000 }] ++
  [{ mnemonic := "7xnn", bits := 0x7000, mask := 0xF000 },
   { mnemonic := "8xy0", bits := 0x8000, mask := 0xF00F },
   { mnemonic := "8xy1", bits := 0x8001, mask := 0xF00F },
   { mnemonic := "8xy2", bits := 0x8002, mask := 0xF00F },
   { mnemonic := "8xy3", bits := 0x8003, mask := 0xF00F },
   { mnemonic := "8xy4", bits := 0x8004, mask := 0xF00F },
   { mnemonic := "8xy5", bits := 0x8005, mask := 0xF00F },
   { mnemonic := "8xy6", bits := 0x8006, mask := 0xF00F }] ++
  [{ mnemonic := "8xy7", bits := 0x8007, mask := 0xF00F },
   { mnemonic := "8xyE", bits := 0x800E, mask := 0xF00F },
   { mnemonic := "9xy0", bits := 0x9000, mask := 0xF00F },
   { mnemonic := "Annn", bits := 0xA000, mask := 0xF000 },
   { mnemonic := "Bnnn", bits := 0xB000, mask := 0xF000 },
   { mnemonic := "Cxnn", bits := 0xC000, mask := 0xF000 },
   { mnemonic := "Dxyn", bits := 0xD000, mask := 0xF000 },
   { mnemonic := "Ex9E", bits := 0xE09E, mask := 0xF0FF }] ++
  [{ mnemonic := "ExA1", bits := 0xE0A1, mask := 0xF0FF },
   { mnemonic := "Fx07", bits := 0xF007, mask := 0xF0FF },
   { mnemonic := "Fx0A", bits := 0xF00A, mask := 0xF0FF },
   { mnemonic := "Fx15", bits := 0xF015, mask := 0xF0FF },
   { mnemonic := "Fx18", bits := 0xF018, mask := 0xF0FF },
   { mnemonic := "Fx1E", bits := 0xF01E, mask := 0xF0FF },
   { mnemonic := "Fx29", bits := 0xF029, mask := 0xF0FF },
   { mnemonic := "Fx33", bits := 0xF033, mask := 0xF0FF }] ++
  [{ mnemonic := "Fx55", bits := 0xF055, mask := 0xF0FF },
   { mnemonic := "Fx65", bits := 0xF065, mask := 0xF0FF }]

/-- `w` selects the row `r` (R98). -/
def OpcodeRow.selects (r : OpcodeRow) (w : Word) : Bool := w &&& r.mask == r.bits

/-- The four nibbles of a word, most significant first (R93). -/
def packNibbles (op x y n : Nibble) : Word :=
  op.setWidth 16 <<< 12 ||| x.setWidth 16 <<< 8 ||| y.setWidth 16 <<< 4 ||| n.setWidth 16

/-- Format `XIMM` and, with a fixed `nn`, format `XF` (R93). -/
def packImm (op x : Nibble) (nn : Byte) : Word :=
  op.setWidth 16 <<< 12 ||| x.setWidth 16 <<< 8 ||| nn.setWidth 16

/-- Format `ADDR` (R93). -/
def packAddr (op : Nibble) (nnn : Imm12) : Word := op.setWidth 16 <<< 12 ||| nnn.setWidth 16

/-- The encoder: the word of an instruction, from the formats of R93 and the patterns of R98. -/
def encode : Instr → Word
  | .cls => 0x00E0
  | .ret => 0x00EE
  | .jp nnn => packAddr 0x1 nnn
  | .call nnn => packAddr 0x2 nnn
  | .skipEqImm x nn => packImm 0x3 x nn
  | .skipNeImm x nn => packImm 0x4 x nn
  | .skipEqReg x y => packNibbles 0x5 x y 0x0
  | .ldImm x nn => packImm 0x6 x nn
  | .addImm x nn => packImm 0x7 x nn
  | .ldReg x y => packNibbles 0x8 x y 0x0
  | .orReg x y => packNibbles 0x8 x y 0x1
  | .andReg x y => packNibbles 0x8 x y 0x2
  | .xorReg x y => packNibbles 0x8 x y 0x3
  | .addReg x y => packNibbles 0x8 x y 0x4
  | .subReg x y => packNibbles 0x8 x y 0x5
  | .shr x y => packNibbles 0x8 x y 0x6
  | .subnReg x y => packNibbles 0x8 x y 0x7
  | .shl x y => packNibbles 0x8 x y 0xE
  | .skipNeReg x y => packNibbles 0x9 x y 0x0
  | .ldI nnn => packAddr 0xA nnn
  | .jpV0 nnn => packAddr 0xB nnn
  | .rnd x nn => packImm 0xC x nn
  | .drw x y n => packNibbles 0xD x y n
  | .skipKey x => packImm 0xE x 0x9E
  | .skipNotKey x => packImm 0xE x 0xA1
  | .readDelay x => packImm 0xF x 0x07
  | .waitKey x => packImm 0xF x 0x0A
  | .writeDelay x => packImm 0xF x 0x15
  | .writeSound x => packImm 0xF x 0x18
  | .addI x => packImm 0xF x 0x1E
  | .ldGlyph x => packImm 0xF x 0x29
  | .storeBcd x => packImm 0xF x 0x33
  | .storeRegs x => packImm 0xF x 0x55
  | .loadRegs x => packImm 0xF x 0x65
  | .unknown w => w

end Sys2Proof
end

