-- ==== Sys2Proof/Config.lean ====
section
/-! DEFINITION. What is fixed for a machine: the fixed parameters (00_scope.md R5), the open and defaulted parameters (R6) and the oracles (R7). The open parameters and the oracles have no body, so no proof can rest on a value of theirs. -/

namespace Sys2Proof

/-- Which register `8xy6` and `8xyE` shift (41_alu.md R162). -/
inductive ShiftSource where
  | vx
  | vy
  deriving DecidableEq, Repr, Inhabited

/-- The run parameters of 00_scope.md R6, sampled at reset and fixed for the run that follows (70_reset_and_hazards.md R313). -/
structure Params where
  /-- `IPF`: instruction cycles attempted in one frame. -/
  ipf : Nat
  /-- `SHIFT_SOURCE`. -/
  shiftSource : ShiftSource
  /-- `LOADSTORE_ADVANCES_I`. -/
  loadStoreAdvancesI : Bool
  /-- `BEEP_THRESHOLD`, 0..255. -/
  beepThreshold : Byte
  deriving DecidableEq, Repr

namespace Config

/-- `MEM_SIZE` (R5). -/
def memSize : Nat := 4096

/-- `PROGRAM_START` (R5). -/
def programStart : Nat := 0x200

/-- `ROM_MAX` (R5): the longest program image kept. -/
def romMax : Nat := 3584

/-- `IPF` less one: open (R6, D2). FREE VALUE, log entry 3. -/
opaque ipfLessOne : Nat

/-- `IPF`, a natural number that is at least 1 and otherwise open (R6, D2). -/
def ipf : Nat := ipfLessOne + 1

/-- `SHIFT_SOURCE`: open (R6, D3). FREE VALUE, log entry 3. -/
opaque shiftSource : ShiftSource

/-- `KeysIn(f)`: bit `k` says that key `k` is down at the start of frame `f` (R7, R289). FREE VALUE, log entry 2. -/
opaque keysIn : Nat → BitVec 16

/-- `QuitIn(f)`: the quit signal at the start of frame `f` (R7, R291). FREE VALUE, log entry 2. -/
opaque quitIn : Nat → Bool

/-- `RandByte()`: the answer to the request numbered `d`, counted from 0 (R7, R290). FREE VALUE, log entry 2. -/
opaque randByte : Nat → Byte

/-- The parameters of the machine: the open ones free, the others at the defaults of R6. -/
def params : Params :=
  { ipf := ipf, shiftSource := shiftSource, loadStoreAdvancesI := true, beepThreshold := 2 }

/-- `FONT`, its default (10_state.md R52): glyph `d` is the 5 bytes from `5 * d`. PRESUMED by the spec (G1), log entry 9. -/
def font : List Byte :=
  [0xF0, 0x90, 0x90, 0x90, 0xF0] ++ [0x20, 0x60, 0x20, 0x20, 0x70] ++
  [0xF0, 0x10, 0xF0, 0x80, 0xF0] ++ [0xF0, 0x10, 0xF0, 0x10, 0xF0] ++
  [0x90, 0x90, 0xF0, 0x10, 0x10] ++ [0xF0, 0x80, 0xF0, 0x10, 0xF0] ++
  [0xF0, 0x80, 0xF0, 0x90, 0xF0] ++ [0xF0, 0x10, 0x20, 0x40, 0x40] ++
  [0xF0, 0x90, 0xF0, 0x90, 0xF0] ++ [0xF0, 0x90, 0xF0, 0x10, 0xF0] ++
  [0xF0, 0x90, 0xF0, 0x90, 0x90] ++ [0xE0, 0x90, 0xE0, 0x90, 0xE0] ++
  [0xF0, 0x80, 0x80, 0x80, 0xF0] ++ [0xE0, 0x90, 0x90, 0x90, 0xE0] ++
  [0xF0, 0x80, 0xF0, 0x80, 0xF0] ++ [0xF0, 0x80, 0xF0, 0x80, 0x80]

end Config

end Sys2Proof
end

