-- ==== Sys2Proof/Machine/State.lean ====
section
/-! DEFINITION. The state of the machine as plain data: what 10_state.md gives it, and the model's own fields that sequence a frame; the state after reset (R55, R310); the reasons a step stops. -/

namespace Sys2Proof.Machine

/-- `RUN` (10_state.md R36). -/
inductive RunState where
  | running
  | halted
  | stopped
  deriving DecidableEq, Repr

/-- The three faults (60_exceptions.md R270); an enumeration without codes. -/
inductive FaultKind where
  | stackOverflow
  | stackUnderflow
  | outOfBoundsFetch
  deriving DecidableEq, Repr

/-- `FAULT` (10_state.md R37). -/
structure FaultRecord where
  valid : Bool
  kind : FaultKind
  pc : Word
  ir : Word
  irValid : Bool
  deriving DecidableEq, Repr

/-- Where in a frame the machine stands (the loop of 49_frame_scheduler.md R245). The model's own, log entry 1. -/
inductive Phase where
  /-- Before step 1 of the frame numbered `frame`. -/
  | frameStart
  /-- In step 2, with `left` instruction cycles of the batch still to attempt; 0 when the batch is over. -/
  | batch (left : Nat)
  deriving DecidableEq, Repr

/-- What the sinks receive, with the number of the frame (60_exceptions.md R285). The model's own, log entry 8. -/
inductive Event where
  /-- `Present`: the packed framebuffer of 10_state.md R54. -/
  | present (frame : Nat) (bitmap : List Byte)
  /-- `Beep` (49_frame_scheduler.md R256). -/
  | beep (frame : Nat)
  deriving DecidableEq, Repr

/-- `V0..VF` (R20). -/
abbrev Regs := Vector Byte 16

/-- `FB` (R53): row `y` from the top; column `x` from the left is bit `x` of its row (log entry 17). -/
abbrev Framebuffer := Vector (BitVec 64) 32

/-- The state of the machine (10_state.md R46, R55). -/
structure State where
  /-- `V0..VF` (R20, R22). -/
  v : Regs
  /-- `I` (R26). -/
  i : Word
  /-- `PC` (R27). -/
  pc : Word
  /-- `STACK[0..15]` (R30). -/
  stack : Vector Word 16
  /-- `SP`, 0..16 (R31). -/
  sp : Fin 17
  /-- `DT` (R33). -/
  dt : Byte
  /-- `ST` (R34). -/
  st : Byte
  /-- `IR` (R35). -/
  ir : Word
  /-- `RUN` (R36). -/
  run : RunState
  /-- `FAULT` (R37). -/
  fault : FaultRecord
  /-- `QUIT_PENDING` (R38). -/
  quitPending : Bool
  /-- `KEY_CUR`: bit `k` is key `k` (R40). -/
  keyCur : BitVec 16
  /-- `KEY_PREV` (R41). -/
  keyPrev : BitVec 16
  /-- `WAIT` (R42). -/
  wait : Bool
  /-- `WAIT_REG` (R43). -/
  waitReg : Nibble
  /-- `DIRTY` (R44). -/
  dirty : Bool
  /-- `MEM` (R50): the listed cells; an unlisted address reads `Memory.unlisted`. -/
  mem : List Host.Cell
  /-- `FB` (R53). -/
  fb : Framebuffer
  /-- The model's own: where in the frame the machine stands (log entry 1). -/
  phase : Phase
  /-- The model's own: the number `f` of the frame, from 1 (R245, log entry 2). -/
  frame : Nat
  /-- The model's own: how many random bytes were asked for (log entry 2). -/
  draws : Nat
  /-- The model's own: the parameters, sampled at reset (R313, log entry 3). -/
  cfg : Params
  /-- The model's own: what the sinks received, oldest first (log entry 8). -/
  events : List Event
  deriving DecidableEq, Repr

/-- Why a step has no next state. -/
inductive Fault where
  /-- Raised by `step` when `RUN` is `HALTED`: no frame runs and only reset leaves the state (49_frame_scheduler.md R259). Safe, log entry 7. -/
  | halted
  /-- Raised by `step` when `RUN` is `STOPPED`: no frame runs and only reset leaves the state (49_frame_scheduler.md R259). Safe, log entry 7. -/
  | stopped
  deriving DecidableEq, Repr

/-- Why an instruction has no meaning. -/
inductive Refusal where
  /-- Raised by an arm of `exec` whose instruction has no meaning yet; no arm raises it in this model. Safe. -/
  | notModelled (mnemonic : String)
  deriving DecidableEq, Repr

/-- The state right after `Reset` with an empty program image (70_reset_and_hazards.md R310, 10_state.md R55): frame 1 is about to begin. -/
def State.reset : State :=
  { v := Vector.replicate 16 0
    i := 0
    pc := 0x0200
    stack := Vector.replicate 16 0
    sp := 0
    dt := 0
    st := 0
    ir := 0
    run := .running
    fault := { valid := false, kind := .stackOverflow, pc := 0, ir := 0, irValid := false }
    quitPending := false
    keyCur := 0
    keyPrev := 0
    wait := false
    waitReg := 0
    dirty := false
    mem := []
    fb := Vector.replicate 32 0
    phase := .frameStart
    frame := 1
    draws := 0
    cfg := Config.params
    events := [] }

end Sys2Proof.Machine
end

