-- ==== Sys2Proof/Machine/Flags.lean ====
section
/-! DEFINITION. The arithmetic of 41_alu.md on 8-bit unsigned values (R150 to R152) and every flag value of 10_state.md R24, computed on exact naturals and narrowed at the end. -/

namespace Sys2Proof.Machine

/-- A flag as it is stored in `VF`: exactly 0x00 or 0x01 (10_state.md R24). -/
def flagByte (b : Bool) : Byte := if b then 1 else 0

/-- `(a + b) mod 256` (41_alu.md R155, R160). -/
def addByte (a b : Byte) : Byte := BitVec.ofNat 8 (a.toNat + b.toNat)

/-- The carry out of `a + b` (41_alu.md R152, R160). -/
def carryOut (a b : Byte) : Bool := decide (a.toNat + b.toNat > 255)

/-- `(a - b) mod 256` (41_alu.md R150, R161). -/
def subByte (a b : Byte) : Byte := BitVec.ofNat 8 (a.toNat + 256 - b.toNat)

/-- No borrow in `a - b`: the minuend is at least the subtrahend (41_alu.md R152). -/
def noBorrow (a b : Byte) : Bool := decide (b.toNat ≤ a.toNat)

/-- `s >> 1` (41_alu.md R163). -/
def shiftRight (s : Byte) : Byte := BitVec.ofNat 8 (s.toNat >>> 1)

/-- `(s << 1) mod 256` (41_alu.md R165). -/
def shiftLeft (s : Byte) : Byte := BitVec.ofNat 8 (s.toNat <<< 1)

/-- `s[0]`, the bit shifted out at the right (41_alu.md R163). -/
def lowBit (s : Byte) : Bool := s.getLsbD 0

/-- `s[7]`, the bit shifted out at the left (41_alu.md R165). -/
def highBit (s : Byte) : Bool := s.getLsbD 7

/-- The decimal digits of a byte: hundreds, tens, ones, a byte each (42_index_memory.md R185). -/
def bcdDigits (b : Byte) : List Byte :=
  [BitVec.ofNat 8 (b.toNat / 100), BitVec.ofNat 8 (b.toNat / 10 % 10), BitVec.ofNat 8 (b.toNat % 10)]

end Sys2Proof.Machine
end

