-- ==== Sys2Proof/Machine/Memory.lean ====
section
/-! DEFINITION. `MEM` as a canonical list of cells (10_state.md R50 to R52, 20_memory.md R60 to R73): raw reads and writes, with no range check, and the block operations built on them. -/

namespace Sys2Proof.Machine

/-- What an address that is not listed reads as: the reset contents with an empty image, `FONT` from `GLYPH_BASE` = 0 and 0x00 elsewhere (10_state.md R50, R52). -/
def Memory.unlisted (a : Nat) : Byte := Config.font.getD a 0

/-- `MEM[a]`: the byte last written there, else the reset value (20_memory.md R71). -/
def Memory.read : List Host.Cell → Nat → Byte
  | [], a => Memory.unlisted a
  | (k, b) :: rest, a => if k = a then b else Memory.read rest a

/-- Put a cell among cells in rising order of address. -/
def Memory.insertCell (a : Nat) (b : Byte) : List Host.Cell → List Host.Cell
  | [] => [(a, b)]
  | (k, c) :: rest => if a < k then (a, b) :: (k, c) :: rest else (k, c) :: Memory.insertCell a b rest

/-- The memory without a listed cell at `a`. -/
def Memory.forget (m : List Host.Cell) (a : Nat) : List Host.Cell := m.filter fun c => c.1 != a

/-- `MEM[a] <- b`, keeping the list canonical: a cell is listed only if it differs from what its address reads unlisted. -/
def Memory.write (m : List Host.Cell) (a : Nat) (b : Byte) : List Host.Cell :=
  if b = Memory.unlisted a then Memory.forget m a else Memory.insertCell a b (Memory.forget m a)

/-- Store `bytes` at `a`, `a + 1`, ... in ascending order (20_memory.md R70). -/
def Memory.writeBlock : List Host.Cell → Nat → List Byte → List Host.Cell
  | m, _, [] => m
  | m, a, b :: rest => Memory.writeBlock (Memory.write m a b) (a + 1) rest

/-- The `n` bytes at `a`, `a + 1`, ... (20_memory.md R63). -/
def Memory.readBlock (m : List Host.Cell) : Nat → Nat → List Byte
  | _, 0 => []
  | a, n + 1 => Memory.read m a :: Memory.readBlock m (a + 1) n

/-- The canonical form: addresses inside the 4096 bytes and strictly rising, and no cell equal to what its address reads unlisted. -/
abbrev Memory.wf (m : List Host.Cell) : Prop :=
  (m.map Prod.fst).Pairwise (· < ·) ∧ ∀ c ∈ m, c.1 < Config.memSize ∧ c.2 ≠ Memory.unlisted c.1

end Sys2Proof.Machine
end

