-- ==== Sys2Proof/Machine/Ops.lean ====
section
/-! DEFINITION. The named operations every meaning is built from: registers, the ends of an instruction (00_scope.md R14), the range check, taking a fault, the call stack, and reset. -/

namespace Sys2Proof.Machine

/-- `V[x]` (00_scope.md R12). -/
def reg (s : State) (x : Nibble) : Byte := s.v[x.toNat]'x.isLt

/-- `V[x] <- b` (00_scope.md R12). -/
def setReg (s : State) (x : Nibble) (b : Byte) : State := { s with v := s.v.set x.toNat b x.isLt }

/-- `V[F] <- flag`, the last write of an instruction that has a flag (10_state.md R23, R24). -/
def setFlag (s : State) (b : Bool) : State := setReg s 0xF (flagByte b)

/-- Signal `NEXT`: `PC <- (PC + 2) mod 2^16` (49_frame_scheduler.md R240). -/
def endNext (s : State) : State := { s with pc := s.pc + 2 }

/-- Signal `JUMPED` to `target` (00_scope.md R14). -/
def endJump (s : State) (target : Word) : State := { s with pc := target }

/-- The end of a skip: `PC + 4` with signal `JUMPED` if the condition holds, else signal `NEXT` (40_control_flow.md R120, R130). -/
def endSkip (s : State) (taken : Bool) : State := if taken then endJump s (s.pc + 4) else endNext s

/-- `CheckRange(a, len)` passes: the whole block lies inside memory; an empty block always passes (00_scope.md R12, 20_memory.md R62). -/
def inRange (a len : Nat) : Bool := decide (len = 0 ∨ a + len ≤ Config.memSize)

/-- Taking a fault, the machine's only trap entry (60_exceptions.md R279): the record is filled from `PC` and the word fetched, if one was, and the machine halts; nothing else changes and control goes nowhere. -/
def takeFault (s : State) (kind : FaultKind) (fetched : Option Word) : State :=
  { s with
    fault := { valid := true, kind := kind, pc := s.pc, ir := fetched.getD 0, irValid := fetched.isSome }
    run := .halted }

/-- `raise` in an executing instruction, whose word is in `IR` (00_scope.md R12, 60_exceptions.md R281). -/
def raiseFault (s : State) (kind : FaultKind) : State := takeFault s kind (some s.ir)

/-- A data access of `len` bytes at `I`: `raise OutOfBoundsFetch` before any write if the block is not inside memory (60_exceptions.md R274, R276), else the effect. -/
def guardBlock (s : State) (len : Nat) (effect : State) : State :=
  if inRange s.i.toNat len then effect else raiseFault s .outOfBoundsFetch

/-- Push a return address, given that the stack is not full (10_state.md R32). -/
def pushWord (s : State) (w : Word) (h : s.sp.val < 16) : State :=
  { s with stack := s.stack.set s.sp.val w h, sp := ⟨s.sp.val + 1, Nat.succ_lt_succ h⟩ }

/-- The state after a pop, and the value popped, given that the stack is not empty; the slot keeps its contents (10_state.md R32). -/
def popWord (s : State) (h : 0 < s.sp.val) : State × Word :=
  ({ s with sp := ⟨s.sp.val - 1, by omega⟩ }, s.stack[s.sp.val - 1]'(by omega))

/-- `MEM[PC] ++ MEM[PC+1]` if both are in range (20_memory.md R61, R64). -/
def fetchWord (s : State) : Option Word :=
  if inRange s.pc.toNat 2 then
    some (wordOfBytes (Memory.read s.mem s.pc.toNat) (Memory.read s.mem (s.pc.toNat + 1)))
  else none

/-- `Reset(ROM)` (70_reset_and_hazards.md R310) with the parameters and the font it samples (R313): from any prior state, so no prior state is an argument. There is no other way out of a fault (60_exceptions.md R282). -/
def resetWith (cfg : Params) (font rom : List Byte) : State :=
  { State.reset with
    cfg := cfg
    mem := Memory.writeBlock (Memory.writeBlock [] 0 (font.take 80)) Config.programStart (rom.take Config.romMax) }

end Sys2Proof.Machine
end

