-- ==== Sys2Proof/Machine/Operands.lean ====
section
/-! DEFINITION. Every operand form of the instructions (30_encoding.md R95 to R97): immediates, the shift source, the key selected by a register, the register block `V0..Vx`, and the pixels of a sprite. -/

namespace Sys2Proof.Machine

/-- `zext_16(nnn)` (30_encoding.md R96). -/
def addressOf (nnn : Imm12) : Word := nnn.setWidth 16

/-- `zext_16` of a register's contents (40_control_flow.md R128, 42_index_memory.md R182). -/
def extendByte (b : Byte) : Word := b.setWidth 16

/-- The value `s` that `8xy6` and `8xyE` shift (41_alu.md R162). -/
def shiftSource (s : State) (x y : Nibble) : Byte :=
  match s.cfg.shiftSource with
  | .vx => reg s x
  | .vy => reg s y

/-- `KEY_CUR[V[x] mod 16]` (44_keys_timers.md R220). -/
def keyDown (s : State) (x : Nibble) : Bool := s.keyCur.getLsbD ((reg s x).toNat % 16)

/-- The values of `V0`, `V1`, ... in order, `count` of them (42_index_memory.md R186). -/
def regBlock (s : State) (count : Nat) : List Byte := s.v.toList.take count

/-- `V[k] <- MEM[I + k]` for `k` from 0 to `count - 1`, ascending (42_index_memory.md R187). -/
def loadBlock (s : State) (base : Nat) : Nat → State
  | 0 => s
  | k + 1 =>
    let t := loadBlock s base k
    setReg t (BitVec.ofNat 4 k) (Memory.read t.mem (base + k))

/-- `I` after a block transfer of `count` registers (42_index_memory.md R186, R187). -/
def advanceI (s : State) (count : Nat) : State :=
  if s.cfg.loadStoreAdvancesI then { s with i := BitVec.ofNat 16 (s.i.toNat + count) } else s

/-- `FB[y][x]` (10_state.md R53). -/
def pixel (fb : Framebuffer) (y : Fin 32) (x : Fin 64) : Bool := fb[y].getLsbD x.val

/-- `FB[y][x] <- FB[y][x] ^ 1` (43_display.md R202). -/
def togglePixel (fb : Framebuffer) (y : Fin 32) (x : Fin 64) : Framebuffer :=
  fb.set y.val (fb[y] ^^^ BitVec.twoPow 64 x.val) y.isLt

/-- A framebuffer and the collision so far, `coll` of 43_display.md R202. -/
abbrev Blit := Framebuffer × Bool

/-- Column `c` of a sprite row byte `b` drawn at row `py` from column `x0`; bit 7 is the leftmost (43_display.md R200, R202). -/
def blitPixel (py : Fin 32) (x0 : Nat) (b : Byte) (acc : Blit) (c : Nat) : Blit :=
  if b.getLsbD (7 - c) then
    let px := Fin.ofNat 64 (x0 + c)
    (togglePixel acc.1 py px, acc.2 || pixel acc.1 py px)
  else acc

/-- The 8 columns of a sprite row, ascending (43_display.md R202). -/
def blitRow (py : Fin 32) (x0 : Nat) (b : Byte) (acc : Blit) : Blit :=
  [0, 1, 2, 3, 4, 5, 6, 7].foldl (blitPixel py x0 b) acc

/-- The rows of a sprite from row `y0`, ascending; coordinates wrap (43_display.md R200, R202). -/
def blitRows (x0 : Nat) : Nat → List Byte → Blit → Blit
  | _, [], acc => acc
  | y0, b :: rest, acc => blitRows x0 (y0 + 1) rest (blitRow (Fin.ofNat 32 y0) x0 b acc)

/-- The byte `B[k]` of the packed view: row `k div 8`, the leftmost pixel in bit 7 (10_state.md R54). -/
def packedByte (fb : Framebuffer) (k : Nat) : Byte :=
  BitVec.ofBoolListBE ([0, 1, 2, 3, 4, 5, 6, 7].map fun j =>
    pixel fb (Fin.ofNat 32 (k / 8)) (Fin.ofNat 64 (8 * (k % 8) + j)))

/-- The packed view of the framebuffer, 256 bytes (10_state.md R54). -/
def packedView (fb : Framebuffer) : List Byte := (List.range 256).map (packedByte fb)

end Sys2Proof.Machine
end

