-- ==== Sys2Proof/Machine/Alu.lean ====
section
/-! DEFINITION. The load-immediate, arithmetic, logic, shift and random instructions (41_alu.md). Operands are read from the state before the instruction, the result is written, then the flag (R151). -/

namespace Sys2Proof.Machine

/-- `6xnn` (R154): `Vx <- nn`. -/
def execLdImm (x : Nibble) (nn : Byte) (s : State) : Host.Outcome State Fault Refusal :=
  .next (endNext (setReg s x nn))

/-- `7xnn` (R155): `Vx <- (Vx + nn) mod 256`, no flag. -/
def execAddImm (x : Nibble) (nn : Byte) (s : State) : Host.Outcome State Fault Refusal :=
  .next (endNext (setReg s x (addByte (reg s x) nn)))

/-- `8xy0` (R156): `Vx <- Vy`. -/
def execLdReg (x y : Nibble) (s : State) : Host.Outcome State Fault Refusal :=
  .next (endNext (setReg s x (reg s y)))

/-- `8xy1` (R157): `Vx <- Vx | Vy`, no flag. -/
def execOrReg (x y : Nibble) (s : State) : Host.Outcome State Fault Refusal :=
  .next (endNext (setReg s x (reg s x ||| reg s y)))

/-- `8xy2` (R158): `Vx <- Vx & Vy`, no flag. -/
def execAndReg (x y : Nibble) (s : State) : Host.Outcome State Fault Refusal :=
  .next (endNext (setReg s x (reg s x &&& reg s y)))

/-- `8xy3` (R159): `Vx <- Vx ^ Vy`, no flag. -/
def execXorReg (x y : Nibble) (s : State) : Host.Outcome State Fault Refusal :=
  .next (endNext (setReg s x (reg s x ^^^ reg s y)))

/-- `8xy4` (R160): `Vx <- (Vx + Vy) mod 256`, `VF <-` carry out. -/
def execAddReg (x y : Nibble) (s : State) : Host.Outcome State Fault Refusal :=
  .next (endNext (setFlag (setReg s x (addByte (reg s x) (reg s y))) (carryOut (reg s x) (reg s y))))

/-- `8xy5` (R161): `Vx <- (Vx - Vy) mod 256`, `VF <-` not borrow. -/
def execSubReg (x y : Nibble) (s : State) : Host.Outcome State Fault Refusal :=
  .next (endNext (setFlag (setReg s x (subByte (reg s x) (reg s y))) (noBorrow (reg s x) (reg s y))))

/-- `8xy6` (R163): shift the source of R162 right by one into `Vx`, `VF <-` the bit shifted out. -/
def execShr (x y : Nibble) (s : State) : Host.Outcome State Fault Refusal :=
  .next (endNext (setFlag (setReg s x (shiftRight (shiftSource s x y))) (lowBit (shiftSource s x y))))

/-- `8xy7` (R164): `Vx <- (Vy - Vx) mod 256`, `VF <-` not borrow. -/
def execSubnReg (x y : Nibble) (s : State) : Host.Outcome State Fault Refusal :=
  .next (endNext (setFlag (setReg s x (subByte (reg s y) (reg s x))) (noBorrow (reg s y) (reg s x))))

/-- `8xyE` (R165): shift the source of R162 left by one into `Vx`, `VF <-` the bit shifted out. -/
def execShl (x y : Nibble) (s : State) : Host.Outcome State Fault Refusal :=
  .next (endNext (setFlag (setReg s x (shiftLeft (shiftSource s x y))) (highBit (shiftSource s x y))))

/-- `Cxnn` once the randomness source has answered `r` (R166): `Vx <- r & nn`, one draw made. -/
def rndWith (r : Byte) (x : Nibble) (nn : Byte) (s : State) : State :=
  endNext { setReg s x (r &&& nn) with draws := s.draws + 1 }

/-- `Cxnn` (R166): one byte is asked of the randomness source, a free value (00_scope.md R7, log entry 2). -/
def execRnd (x : Nibble) (nn : Byte) (s : State) : Host.Outcome State Fault Refusal :=
  .next (rndWith (Config.randByte s.draws) x nn s)

end Sys2Proof.Machine
end

