-- ==== Sys2Proof/Machine/ControlFlow.lean ====
section
/-! DEFINITION. The control-flow instructions and `UNKNOWN` (40_control_flow.md). -/

namespace Sys2Proof.Machine

/-- `00EE` (R121): pop the call stack into `PC`, or `StackUnderflow` when `SP = 0` (60_exceptions.md R272). -/
def execRet (s : State) : Host.Outcome State Fault Refusal :=
  if h : 0 < s.sp.val then .next (endJump (popWord s h).1 (popWord s h).2)
  else .next (raiseFault s .stackUnderflow)

/-- `1nnn` (R122): `PC <- nnn`. -/
def execJp (nnn : Imm12) (s : State) : Host.Outcome State Fault Refusal :=
  .next (endJump s (addressOf nnn))

/-- `2nnn` (R123): push `PC + 2` and jump, or `StackOverflow` when `SP = 16` (60_exceptions.md R271). -/
def execCall (nnn : Imm12) (s : State) : Host.Outcome State Fault Refusal :=
  if h : s.sp.val < 16 then .next (endJump (pushWord s (s.pc + 2) h) (addressOf nnn))
  else .next (raiseFault s .stackOverflow)

/-- `3xnn` (R124): skip if `Vx = nn`. -/
def execSkipEqImm (x : Nibble) (nn : Byte) (s : State) : Host.Outcome State Fault Refusal :=
  .next (endSkip s (reg s x == nn))

/-- `4xnn` (R125): skip if `Vx ≠ nn`. -/
def execSkipNeImm (x : Nibble) (nn : Byte) (s : State) : Host.Outcome State Fault Refusal :=
  .next (endSkip s (reg s x != nn))

/-- `5xy0` (R126): skip if `Vx = Vy`. -/
def execSkipEqReg (x y : Nibble) (s : State) : Host.Outcome State Fault Refusal :=
  .next (endSkip s (reg s x == reg s y))

/-- `9xy0` (R127): skip if `Vx ≠ Vy`. -/
def execSkipNeReg (x y : Nibble) (s : State) : Host.Outcome State Fault Refusal :=
  .next (endSkip s (reg s x != reg s y))

/-- `Bnnn` (R128): `PC <- nnn + V0`, not reduced to 12 bits. -/
def execJpV0 (nnn : Imm12) (s : State) : Host.Outcome State Fault Refusal :=
  .next (endJump s (addressOf nnn + extendByte (reg s 0)))

/-- `UNKNOWN` (R129): a no-op; the word's bits select nothing. -/
def execUnknown (_w : Word) (s : State) : Host.Outcome State Fault Refusal :=
  .next (endNext s)

end Sys2Proof.Machine
end

