-- ==== Sys2Proof/Machine/Display.lean ====
section
/-! DEFINITION. The display instructions (43_display.md). -/

namespace Sys2Proof.Machine

/-- `00E0` (R201): every pixel off, `DIRTY <- 1`. -/
def execCls (s : State) : Host.Outcome State Fault Refusal :=
  .next (endNext { s with fb := Vector.replicate 32 0, dirty := true })

/-- The blit of `Dxyn` (R202): the sprite of `n` bytes at `I` drawn from the origin `(V[x] mod 64, V[y] mod 32)`, with the collision. -/
def drawSprite (x y n : Nibble) (s : State) : Blit :=
  blitRows ((reg s x).toNat % 64) ((reg s y).toNat % 32) (Memory.readBlock s.mem s.i.toNat n.toNat) (s.fb, false)

/-- `Dxyn` (R202): draw, `DIRTY <- 1`, and last `VF <-` collision. -/
def execDrw (x y n : Nibble) (s : State) : Host.Outcome State Fault Refusal :=
  .next (guardBlock s n.toNat
    (endNext (setFlag { s with fb := (drawSprite x y n s).1, dirty := true } (drawSprite x y n s).2)))

end Sys2Proof.Machine
end

