-- ==== Sys2Proof/Machine/IndexMemory.lean ====
section
/-! DEFINITION. The index-register and memory instructions (42_index_memory.md). A block is range-checked whole before anything is written (R183). -/

namespace Sys2Proof.Machine

/-- `Annn` (R181): `I <- nnn`. -/
def execLdI (nnn : Imm12) (s : State) : Host.Outcome State Fault Refusal :=
  .next (endNext { s with i := addressOf nnn })

/-- `Fx1E` (R182): `I <- (I + Vx) mod 2^16`, no flag. -/
def execAddI (x : Nibble) (s : State) : Host.Outcome State Fault Refusal :=
  .next (endNext { s with i := s.i + extendByte (reg s x) })

/-- `Fx29` (R184): `I <- Vx * 5`, for every value of `Vx`. -/
def execLdGlyph (x : Nibble) (s : State) : Host.Outcome State Fault Refusal :=
  .next (endNext { s with i := BitVec.ofNat 16 ((reg s x).toNat * 5) })

/-- `Fx33` (R185): the three decimal digits of `Vx` to `MEM[I..I+2]`. -/
def execStoreBcd (x : Nibble) (s : State) : Host.Outcome State Fault Refusal :=
  .next (guardBlock s 3
    (endNext { s with mem := Memory.writeBlock s.mem s.i.toNat (bcdDigits (reg s x)) }))

/-- `Fx55` (R186): `V0..Vx` to `MEM[I..I+x]`, then `I` advanced if the parameter says so. -/
def execStoreRegs (x : Nibble) (s : State) : Host.Outcome State Fault Refusal :=
  .next (guardBlock s (x.toNat + 1)
    (endNext (advanceI
      { s with mem := Memory.writeBlock s.mem s.i.toNat (regBlock s (x.toNat + 1)) } (x.toNat + 1))))

/-- `Fx65` (R187): `MEM[I..I+x]` to `V0..Vx`, then `I` advanced if the parameter says so. -/
def execLoadRegs (x : Nibble) (s : State) : Host.Outcome State Fault Refusal :=
  .next (guardBlock s (x.toNat + 1)
    (endNext (advanceI (loadBlock s s.i.toNat (x.toNat + 1)) (x.toNat + 1))))

end Sys2Proof.Machine
end

