-- ==== Sys2Proof/Machine/KeysTimers.lean ====
section
/-! DEFINITION. The key and timer instructions (44_keys_timers.md). -/

namespace Sys2Proof.Machine

/-- `Ex9E` (R221): skip if the key `Vx mod 16` is down. -/
def execSkipKey (x : Nibble) (s : State) : Host.Outcome State Fault Refusal :=
  .next (endSkip s (keyDown s x))

/-- `ExA1` (R222): skip if the key `Vx mod 16` is up. -/
def execSkipNotKey (x : Nibble) (s : State) : Host.Outcome State Fault Refusal :=
  .next (endSkip s (!keyDown s x))

/-- `Fx07` (R223): `Vx <- DT`. -/
def execReadDelay (x : Nibble) (s : State) : Host.Outcome State Fault Refusal :=
  .next (endNext (setReg s x s.dt))

/-- `Fx0A` (R232): activate the wait; signal `HELD`, so `PC` stays. The resolution is the frame's release-edge check. -/
def execWaitKey (x : Nibble) (s : State) : Host.Outcome State Fault Refusal :=
  .next { s with wait := true, waitReg := x }

/-- `Fx15` (R224): `DT <- Vx`. -/
def execWriteDelay (x : Nibble) (s : State) : Host.Outcome State Fault Refusal :=
  .next (endNext { s with dt := reg s x })

/-- `Fx18` (R225): `ST <- Vx`. -/
def execWriteSound (x : Nibble) (s : State) : Host.Outcome State Fault Refusal :=
  .next (endNext { s with st := reg s x })

end Sys2Proof.Machine
end

