-- ==== Sys2Proof/Machine/Frame.lean ====
section
/-! DEFINITION. The frame scheduler around the instruction cycles (49_frame_scheduler.md): step 1 with the choice of step 2, the release-edge check, steps 3 to 6 with the end of the frame, and the fetch of a cycle. -/

namespace Sys2Proof.Machine

/-- The lowest key that was down in the last frame and is up in this one (R251). -/
def releasedKey (prev cur : BitVec 16) : Option Nat :=
  (List.range 16).find? fun k => prev.getLsbD k && !cur.getLsbD k

/-- `ReleaseCheck` (R251), on the latch as step 1 of this frame left it. -/
def releaseCheck (s : State) : State :=
  match releasedKey s.keyPrev s.keyCur with
  | some k => { setReg s s.waitReg (BitVec.ofNat 8 k) with wait := false, pc := s.pc + 2 }
  | none => s

/-- Step 1 of a frame (R246) once the environment has answered: the latch is refreshed and the quit signal observed. -/
def refreshLatch (keys : BitVec 16) (quit : Bool) (s : State) : State :=
  { s with keyPrev := s.keyCur, keyCur := keys, quitPending := s.quitPending || quit }

/-- The start of step 2 (R245, R247): a frame that begins waiting does the release-edge check and has no batch; any other has a batch of `IPF` cycles. -/
def openBatch (s : State) : State :=
  if s.wait then { releaseCheck s with phase := .batch 0 } else { s with phase := .batch s.cfg.ipf }

/-- The start of a frame: step 1 with the answers of the input source and of the quit signal, free values (00_scope.md R7, log entry 2), and the choice of step 2. -/
def beginFrame (s : State) : State :=
  openBatch (refreshLatch (Config.keysIn s.frame) (Config.quitIn s.frame) s)

/-- Step 3 (R254): present the framebuffer if it is dirty. -/
def present (s : State) : State :=
  if s.dirty then { s with events := s.events ++ [.present s.frame (packedView s.fb)], dirty := false } else s

/-- A timer's tick: down by one, never below 0 (R255). -/
def tickDown (t : Byte) : Byte := if t = 0 then 0 else t - 1

/-- The sound trigger compares the value of `ST` before this frame's tick (R256). -/
def beeps (s : State) : Bool := decide (s.st ≠ 0 ∧ s.cfg.beepThreshold.toNat ≤ s.st.toNat)

/-- Steps 4 and 5 (R255, R256): tick both timers, then trigger the audio sink if the value before the tick is loud enough. -/
def tickTimers (s : State) : State :=
  { s with
    dt := tickDown s.dt
    st := tickDown s.st
    events := if beeps s then s.events ++ [.beep s.frame] else s.events }

/-- The end of a frame (R258): stop if quit was observed; the next frame has the next number. -/
def closeFrame (s : State) : State :=
  { s with
    run := if s.quitPending then .stopped else s.run
    phase := .frameStart
    frame := s.frame + 1 }

/-- Steps 3 to 6 of a frame and its end (R245); the pacing of step 6 changes no state (R257). -/
def endFrame (s : State) : State := closeFrame (tickTimers (present s))

/-- What an instruction cycle does before it executes the fetched word `w` (R240, R245): `IR <- w`, and one cycle fewer is left after it. -/
def enterCycle (s : State) (w : Word) (left : Nat) : State := { s with ir := w, phase := .batch left }

/-- The cycle whose fetch is out of range (60_exceptions.md R273): no instruction executes. -/
def fetchFault (s : State) : State := takeFault s .outOfBoundsFetch none

/-- The state `s` with the word `w` placed where the very next step fetches and executes it: in a batch, running, not waiting, at an address that can be fetched from (log entry 10). -/
def placeWord (s : State) (w : Word) : State :=
  let pc : Word := if inRange s.pc.toNat 2 then s.pc else BitVec.ofNat 16 Config.programStart
  { s with
    pc := pc
    mem := Memory.writeBlock s.mem pc.toNat (bytesOfWord w)
    run := .running
    wait := false
    phase := .batch 1 }

end Sys2Proof.Machine
end

