-- ==== Sys2Proof/Machine/Step.lean ====
section
/-! DEFINITION. One step of the machine: the start of a frame, one instruction cycle of its batch, or its end (49_frame_scheduler.md R240, R245; log entry 1). -/

namespace Sys2Proof.Machine

/-- One step. A halted or stopped machine has none (R259); a batch ends when its cycles are used up or the machine waits for a key (R247). -/
def step (s : State) : Host.Outcome State Fault Refusal :=
  match s.run with
  | .halted => .fault .halted
  | .stopped => .fault .stopped
  | .running =>
    match s.phase with
    | .frameStart => .next (beginFrame s)
    | .batch 0 => .next (endFrame s)
    | .batch (left + 1) =>
      if s.wait then .next (endFrame s)
      else
        match fetchWord s with
        | none => .next (fetchFault s)
        | some w => exec (decodeWord w) (enterCycle s w left)

/-- `s` with an opcode-table word placed where the very next step fetches and executes it (log entry 10). -/
def State.withFetchWord (s : State) (nbits w : Nat) : State := placeWord s (tableWord nbits w)

end Sys2Proof.Machine
end

