-- ==== Sys2Proof/Safety.lean ====
section
/-! DEFINITION. The terms in which claims are stated: the tables of the spec about the whole machine (R21, R24, R28, R63, R277), the invariants of R260, the frame as one function (R245), and the closed form of a sprite (R202, R203). -/

namespace Sys2Proof.Safety

open Sys2Proof.Machine

/-- The fault an instruction raises, as 60_exceptions.md R271 to R274 and the table R277 give it. -/
def faultOf (i : Instr) (s : State) : Option FaultKind :=
  match i with
  | .ret => if s.sp.val = 0 then some .stackUnderflow else none
  | .call _ => if s.sp.val = 16 then some .stackOverflow else none
  | .drw _ _ n => if 0 < n.toNat ∧ s.i.toNat + n.toNat - 1 > 4095 then some .outOfBoundsFetch else none
  | .storeBcd _ => if s.i.toNat + 2 > 4095 then some .outOfBoundsFetch else none
  | .storeRegs x => if s.i.toNat + x.toNat > 4095 then some .outOfBoundsFetch else none
  | .loadRegs x => if s.i.toNat + x.toNat > 4095 then some .outOfBoundsFetch else none
  | .cls | .jp _ | .skipEqImm _ _ | .skipNeImm _ _ | .skipEqReg _ _ | .ldImm _ _ | .addImm _ _
  | .ldReg _ _ | .orReg _ _ | .andReg _ _ | .xorReg _ _ | .addReg _ _ | .subReg _ _ | .shr _ _
  | .subnReg _ _ | .shl _ _ | .skipNeReg _ _ | .ldI _ | .jpV0 _ | .rnd _ _ | .skipKey _
  | .skipNotKey _ | .readDelay _ | .waitKey _ | .writeDelay _ | .writeSound _ | .addI _
  | .ldGlyph _ | .unknown _ => none

/-- `PC` after an instruction that raises no fault, as the table 10_state.md R28 gives it; `P` is `s.pc`. -/
def pcAfter (i : Instr) (s : State) : Word :=
  match i with
  | .jp nnn => BitVec.ofNat 16 nnn.toNat
  | .call nnn => BitVec.ofNat 16 nnn.toNat
  | .ret => s.stack.toList.getD (s.sp.val - 1) 0
  | .jpV0 nnn => BitVec.ofNat 16 (nnn.toNat + (reg s 0).toNat)
  | .skipEqImm x nn => if reg s x = nn then s.pc + 4 else s.pc + 2
  | .skipNeImm x nn => if reg s x = nn then s.pc + 2 else s.pc + 4
  | .skipEqReg x y => if reg s x = reg s y then s.pc + 4 else s.pc + 2
  | .skipNeReg x y => if reg s x = reg s y then s.pc + 2 else s.pc + 4
  | .skipKey x => if s.keyCur.getLsbD ((reg s x).toNat % 16) then s.pc + 4 else s.pc + 2
  | .skipNotKey x => if s.keyCur.getLsbD ((reg s x).toNat % 16) then s.pc + 2 else s.pc + 4
  | .waitKey _ => s.pc
  | .cls | .ldImm _ _ | .addImm _ _ | .ldReg _ _ | .orReg _ _ | .andReg _ _ | .xorReg _ _
  | .addReg _ _ | .subReg _ _ | .shr _ _ | .subnReg _ _ | .shl _ _ | .ldI _ | .rnd _ _ | .drw _ _ _
  | .readDelay _ | .writeDelay _ | .writeSound _ | .addI _ | .ldGlyph _ | .storeBcd _
  | .storeRegs _ | .loadRegs _ | .unknown _ => s.pc + 2

/-- The general registers an instruction writes when it executes, as the table 10_state.md R21 gives them. -/
def writesReg (i : Instr) (j : Nibble) : Bool :=
  match i with
  | .ldImm x _ | .addImm x _ | .ldReg x _ | .orReg x _ | .andReg x _ | .xorReg x _ | .rnd x _
  | .readDelay x => j == x
  | .addReg x _ | .subReg x _ | .shr x _ | .subnReg x _ | .shl x _ => j == x || j == 0xF
  | .drw _ _ _ => j == 0xF
  | .loadRegs x => decide (j.toNat ≤ x.toNat)
  | .cls | .ret | .jp _ | .call _ | .skipEqImm _ _ | .skipNeImm _ _ | .skipEqReg _ _
  | .skipNeReg _ _ | .ldI _ | .jpV0 _ | .skipKey _ | .skipNotKey _ | .waitKey _ | .writeDelay _
  | .writeSound _ | .addI _ | .ldGlyph _ | .storeBcd _ | .storeRegs _ | .unknown _ => false

/-- How many bytes from `I` an instruction stores to (20_memory.md R63). -/
def storeLength (i : Instr) : Nat :=
  match i with
  | .storeBcd _ => 3
  | .storeRegs x => x.toNat + 1
  | _ => 0

/-- How many bytes from `I` an instruction reads as data (20_memory.md R63). -/
def loadLength (i : Instr) : Nat :=
  match i with
  | .drw _ _ n => n.toNat
  | .loadRegs x => x.toNat + 1
  | _ => 0

/-- The effect of an instruction on every piece of state outside `V`, `PC`, `MEM`, `RUN` and `FAULT` stays within what the rules of files 40 to 44 name for it. -/
structure OtherStateKept (i : Instr) (s t : State) : Prop where
  index : (∀ nnn, i ≠ .ldI nnn) → (∀ x, i ≠ .addI x ∧ i ≠ .ldGlyph x ∧ i ≠ .storeRegs x ∧ i ≠ .loadRegs x) → t.i = s.i
  stack : (∀ nnn, i ≠ .call nnn) → t.stack = s.stack
  stackPointer : (∀ nnn, i ≠ .call nnn) → i ≠ .ret → t.sp = s.sp
  delay : (∀ x, i ≠ .writeDelay x) → t.dt = s.dt
  sound : (∀ x, i ≠ .writeSound x) → t.st = s.st
  waiting : (∀ x, i ≠ .waitKey x) → t.wait = s.wait ∧ t.waitReg = s.waitReg
  display : i ≠ .cls → (∀ x y n, i ≠ .drw x y n) → t.fb = s.fb ∧ t.dirty = s.dirty
  draws : (∀ x nn, i ≠ .rnd x nn) → t.draws = s.draws
  sequencing : t.ir = s.ir ∧ t.quitPending = s.quitPending ∧ t.keyCur = s.keyCur ∧ t.keyPrev = s.keyPrev ∧
    t.phase = s.phase ∧ t.frame = s.frame ∧ t.cfg = s.cfg ∧ t.events = s.events

/-- The invariant of 49_frame_scheduler.md R260, with the canonical form of memory and what the model's own `phase` adds. -/
structure Inv (s : State) : Prop where
  /-- Memory is in canonical form. -/
  memory : Memory.wf s.mem
  /-- `FAULT.valid = 1` if and only if `RUN = HALTED`. -/
  faultIffHalted : s.fault.valid = true ↔ s.run = .halted
  /-- `WAIT = 1` implies that `RUN` is not `HALTED`. -/
  waitNotHalted : s.wait = true → s.run ≠ .halted
  /-- `WAIT = 1` implies that the word at `PC` is the `Fx0A` that set it, with `WAIT_REG` its field. -/
  waitAtKeyWord : s.wait = true → ∃ w, fetchWord s = some w ∧ decodeWord w = .waitKey s.waitReg
  /-- `DIRTY = 0` at the end of every completed frame. -/
  cleanBetweenFrames : s.phase = .frameStart → s.dirty = false
  /-- Between frames the machine is stopped exactly when quit was observed. -/
  stoppedIffQuit : s.phase = .frameStart → (s.run = .stopped ↔ s.quitPending = true)
  /-- The machine stops at the end of a frame only. -/
  stoppedBetweenFrames : s.run = .stopped → s.phase = .frameStart
  /-- A halted machine stands inside a batch. -/
  haltedInBatch : s.run = .halted → s.phase ≠ .frameStart
  /-- `IPF` is at least 1. -/
  batchNonempty : 1 ≤ s.cfg.ipf

/-- The sample of the input source numbered `n`, or the reset value of the latch where `n` is 0 (10_state.md R40, R41). -/
def sample (n : Nat) : BitVec 16 := if n = 0 then 0 else Config.keysIn n

/-- How many samples of the keys were taken. -/
def samplesTaken (s : State) : Nat :=
  match s.phase with
  | .frameStart => s.frame - 1
  | .batch _ => s.frame

/-- `KEY_CUR` and `KEY_PREV` are the last two samples of the input source, or the reset value (49_frame_scheduler.md R260). -/
structure LatchHoldsSamples (s : State) : Prop where
  framePositive : 1 ≤ s.frame
  current : s.keyCur = sample (samplesTaken s)
  previous : s.keyPrev = sample (samplesTaken s - 1)

/-- `InstrCycle` of 49_frame_scheduler.md R240 as one function, in a machine that runs and does not wait. -/
def instrCycle (s : State) : State :=
  match fetchWord s with
  | none => fetchFault s
  | some w =>
    match exec (decodeWord w) { s with ir := w } with
    | .next t => t
    | .fault _ => s
    | .refused _ => s

/-- The loop of step 2 of 49_frame_scheduler.md R245: up to `n` cycles, ended by a fault or by `Fx0A`. -/
def runBatch : Nat → State → State
  | 0, s => s
  | n + 1, s =>
    let t := instrCycle s
    if t.run = .running ∧ t.wait = false then runBatch n t else t

/-- `Frame(f)` of 49_frame_scheduler.md R245 as one function, for the answers `keys` and `quit` of the environment; a fault abandons steps 3 to 6 (R247). -/
def frameWith (keys : BitVec 16) (quit : Bool) (s : State) : State :=
  let a := refreshLatch keys quit s
  let b := if a.wait then releaseCheck a else runBatch a.cfg.ipf a
  if b.run = .halted then b else endFrame b

/-- The sprite of `Dxyn` at `I` drawn from the origin `(V[x] mod 64, V[y] mod 32)` has a 1 bit on the pixel at row `py`, column `px` of the torus (43_display.md R200, R202). -/
def spriteCovers (x y n : Nibble) (s : State) (py : Fin 32) (px : Fin 64) : Bool :=
  let row := (py.val + 32 - (reg s y).toNat % 32) % 32
  let column := (px.val + 64 - (reg s x).toNat % 64) % 64
  decide (row < n.toNat) && decide (column < 8) && (Memory.read s.mem (s.i.toNat + row)).getLsbD (7 - column)

/-- The byte-level form of the blit: a source part `p` into the destination byte `k` of the packed view (43_display.md R203). -/
def blitByte (acc : List Byte × Bool) (k : Nat) (p : Byte) : List Byte × Bool :=
  (acc.1.set k (acc.1.getD k 0 ^^^ p), acc.2 || (acc.1.getD k 0 &&& p) != 0)

/-- The byte-level form of one sprite row `b` on row `py` from column `x0`: the left part, and the right part where `x0` is not a multiple of 8 (43_display.md R203). -/
def blitRowBytes (py x0 : Nat) (b : Byte) (acc : List Byte × Bool) : List Byte × Bool :=
  let left := blitByte acc (8 * py + x0 / 8) (b >>> (x0 % 8))
  if x0 % 8 = 0 then left else blitByte left (8 * py + (x0 / 8 + 1) % 8) (b <<< (8 - x0 % 8))

/-- The byte-level form of a sprite's rows from row `y0` (43_display.md R203). -/
def blitRowsBytes (x0 : Nat) : Nat → List Byte → List Byte × Bool → List Byte × Bool
  | _, [], acc => acc
  | y0, b :: rest, acc => blitRowsBytes x0 (y0 + 1) rest (blitRowBytes (y0 % 32) x0 b acc)

end Sys2Proof.Safety
end

