-- ==== Sys2Proof/Certificates/Slice0/Obligations.lean ====
section
/-! DEFINITION. The statements for the provers. Each docstring names the rule or the section of spec/ it formalises, and the spec's own decision (`D<n>`) or the log entry where a clause rests on one. A next state written as a record update of the old state states the whole frame: every field not named is unchanged, memory among them. -/

open Sys2Proof Sys2Proof.Machine Sys2Proof.Safety

/-! ## Encoding -/

/-- 30_encoding.md sections 2 and 4 (R93, R98): the decoder undoes the encoder on every well-formed instruction, with every operand value. -/
def Obligations.DecodeOfEncodeIsInstruction : Prop :=
  ∀ i : Instr, i.wf = true → decodeWord (encode i) = i

/-- R100: a word decodes to the unique assigned row that selects it, to `UNKNOWN` if none does, and none of its bits is lost. -/
def Obligations.DecodeFollowsOpcodeTable : Prop :=
  ∀ w : Word,
    (∀ r ∈ opcodeRows, r.selects w = true → (decodeWord w).mnemonic = r.mnemonic) ∧
    ((∀ r ∈ opcodeRows, r.selects w = false) → decodeWord w = .unknown w) ∧
    (∀ r ∈ opcodeRows, ∀ r' ∈ opcodeRows, r.selects w = true → r'.selects w = true → r = r') ∧
    encode (decodeWord w) = w

/-- 30_encoding.md section 5: the words that decode to `UNKNOWN` are exactly those of the table R102 (exact match of every literal digit is the spec's decision D25), and every word decodes to a well-formed instruction. -/
def Obligations.UnknownWordsAsTabled : Prop :=
  ∀ w : Word, (decodeWord w = .unknown w ↔ inUnknownSpace w = true) ∧ (decodeWord w).wf = true

/-- 95_test_vectors.md section 2.1, and section 2.5 (T43.3) for 0xD015: words written out from the formats decode as the vectors say. That the near misses 0x00E1 and 0x8AB8 are `UNKNOWN` is the spec's decision D25 (log entry 18). -/
def Obligations.SampleWordsDecode : Prop :=
  decodeWord 0x00E0 = .cls ∧ decodeWord 0x00E1 = .unknown 0x00E1 ∧ decodeWord 0x10E0 = .jp 0x0E0 ∧
  decodeWord 0x5120 = .skipEqReg 1 2 ∧ decodeWord 0x8AB7 = .subnReg 0xA 0xB ∧
  decodeWord 0x8AB8 = .unknown 0x8AB8 ∧ decodeWord 0xD015 = .drw 0 1 5 ∧ decodeWord 0xE19E = .skipKey 1 ∧
  decodeWord 0xF155 = .storeRegs 1 ∧ decodeWord 0xCFFF = .rnd 0xF 0xFF

/-! ## The instruction cycle and the frame -/

/-- 49_frame_scheduler.md section 1 (R240) and 20_memory.md sections 1 and 2: in a batch with a cycle left, running and not waiting, a step runs the instruction the two bytes at `PC` decode to, with the word in `IR` and one cycle fewer left; moving `PC` on is part of `exec`. The batch counter is the model's own (log entry 1). -/
def Obligations.StepRunsDecodedInstruction : Prop :=
  ∀ (s : State) (left : Nat), s.run = .running → s.phase = .batch (left + 1) → s.wait = false →
    s.pc.toNat + 1 ≤ 4095 →
    step s = exec (decodeWord (Memory.read s.mem s.pc.toNat ++ Memory.read s.mem (s.pc.toNat + 1)))
      { s with
        ir := Memory.read s.mem s.pc.toNat ++ Memory.read s.mem (s.pc.toNat + 1)
        phase := .batch left }

/-- 10_state.md section 3 (table R28), with the skip conditions of 40_control_flow.md section 2 (R124 to R127) and 44_keys_timers.md sections 1 and 2 (R220 to R222); the low nibble of `Ex9E` and `ExA1` is the spec's decision D14 (log entry 14), the unmasked sum of `Bnnn` its decision D10 (log entry 11): an instruction that raises no fault answers a next state with `PC` as the table says, and neither halts the machine nor touches the fault record. -/
def Obligations.ProgramCounterAsTabled : Prop :=
  ∀ (i : Instr) (s : State), faultOf i s = none →
    ∃ t, exec i s = .next t ∧ t.pc = pcAfter i s ∧ t.run = s.run ∧ t.fault = s.fault

/-- 60_exceptions.md section 1 (R276, R277, R279; the spec's decisions D11, D12, D13): an instruction faults exactly under the tabled conditions, and then writes the fault record, halts and does nothing else. -/
def Obligations.FaultWritesOnlyRecord : Prop :=
  ∀ (i : Instr) (s : State) (k : FaultKind), faultOf i s = some k →
    exec i s = .next { s with
      fault := { valid := true, kind := k, pc := s.pc, ir := s.ir, irValid := true }
      run := .halted }

/-- 60_exceptions.md section 1 (R273; the record's fields are the spec's decision D13): a cycle whose fetch is out of range executes nothing and halts with a record that holds no word. -/
def Obligations.FetchOutOfRangeHalts : Prop :=
  ∀ (s : State) (left : Nat), s.run = .running → s.phase = .batch (left + 1) → s.wait = false →
    s.pc.toNat + 1 > 4095 →
    step s = .next { s with
      fault := { valid := true, kind := .outOfBoundsFetch, pc := s.pc, ir := 0, irValid := false }
      run := .halted }

/-- 49_frame_scheduler.md section 2 (R245, R246): a frame begins by taking the answers of the input source and of the quit signal for its number (free values, log entry 2). -/
def Obligations.FrameStartTakesSamples : Prop :=
  ∀ s : State, s.run = .running → s.phase = .frameStart →
    step s = .next (openBatch (refreshLatch (Config.keysIn s.frame) (Config.quitIn s.frame) s))

/-- 49_frame_scheduler.md section 2 (R246, R247; the spec's decisions D2, D20, D22, D33), whatever the environment answers: the latch is refreshed, quit is remembered, and a machine that does not wait gets a batch of `IPF` cycles. -/
def Obligations.FrameStartOpensBatch : Prop :=
  ∀ (keys : BitVec 16) (quit : Bool) (s : State), s.wait = false →
    openBatch (refreshLatch keys quit s) =
      { s with
        keyPrev := s.keyCur
        keyCur := keys
        quitPending := s.quitPending || quit
        phase := .batch s.cfg.ipf }

/-- 49_frame_scheduler.md section 3 (R251, with R246 and R247; that no batch follows is the spec's decision D20, the latched quit D22, the order of the latch D33, log entry 14; the phase is the model's own, log entry 1), whatever the environment answers: in a frame that begins waiting the lowest key with a release edge is written to the register that waits, the wait is cleared and `PC` advances by 2; with no release edge the wait goes on. No batch follows in the frame, resolved or not. -/
def Obligations.ReleaseEdgeResolvesWait : Prop :=
  ∀ (keys : BitVec 16) (quit : Bool) (s : State), s.wait = true →
    (∀ k : Nat, k < 16 → s.keyCur.getLsbD k = true → keys.getLsbD k = false →
      (∀ j < k, ¬ (s.keyCur.getLsbD j = true ∧ keys.getLsbD j = false)) →
      ∃ t, openBatch (refreshLatch keys quit s) = t ∧
        (∀ j, reg t j = if j = s.waitReg then BitVec.ofNat 8 k else reg s j) ∧
        t = { s with
          v := t.v
          keyPrev := s.keyCur
          keyCur := keys
          quitPending := s.quitPending || quit
          wait := false
          pc := s.pc + 2
          phase := .batch 0 }) ∧
    ((∀ k < 16, ¬ (s.keyCur.getLsbD k = true ∧ keys.getLsbD k = false)) →
      openBatch (refreshLatch keys quit s) =
        { s with
          keyPrev := s.keyCur
          keyCur := keys
          quitPending := s.quitPending || quit
          phase := .batch 0 })

/-- 49_frame_scheduler.md section 4 (R254, R255, R256, R258; the spec's decisions D21, D22): when the batch is over or the machine waits, a step presents a dirty framebuffer, ticks both timers, beeps on the value of `ST` before the tick, stops the machine if quit was observed, and ends the frame. The record of events, the phase and the frame number are the model's own (log entries 1, 2, 8). -/
def Obligations.FrameEndPresentsTicksBeeps : Prop :=
  ∀ s : State, s.run = .running →
    (s.phase = .batch 0 ∨ ∃ left, s.phase = .batch (left + 1) ∧ s.wait = true) →
    ∃ t, step s = .next t ∧
      t.events = s.events ++ (if s.dirty = true then [.present s.frame (packedView s.fb)] else []) ++
        (if s.st.toNat ≠ 0 ∧ s.cfg.beepThreshold.toNat ≤ s.st.toNat then [.beep s.frame] else []) ∧
      t.dt.toNat = s.dt.toNat - 1 ∧ t.st.toNat = s.st.toNat - 1 ∧
      t = { s with
        dirty := false
        events := t.events
        dt := t.dt
        st := t.st
        run := if s.quitPending = true then .stopped else .running
        phase := .frameStart
        frame := s.frame + 1 }

/-- 10_state.md section 8 (R54; the bit order is the spec's decision D17): the packed view has 256 bytes, and the pixel at row `y`, column `x` is bit `7 - x mod 8` of byte `8 * y + x div 8`. -/
def Obligations.PackedViewHoldsPixels : Prop :=
  ∀ fb : Framebuffer, (packedView fb).length = 256 ∧
    ∀ (y : Fin 32) (x : Fin 64),
      ((packedView fb).getD (8 * y.val + x.val / 8) 0).getLsbD (7 - x.val % 8) = pixel fb y x

/-- 49_frame_scheduler.md section 4 (R259; the spec's decisions D12, D34; the two names are the model's, log entry 7): a halted or stopped machine has no step. -/
def Obligations.HaltedOrStoppedHasNoStep : Prop :=
  ∀ s : State, (s.run = .halted → step s = .fault .halted) ∧ (s.run = .stopped → step s = .fault .stopped)

/-- 49_frame_scheduler.md section 2 (R245, R247, with the spec's decisions D2, D12, D20, D21, D22): from the start of a frame, at most `IPF + 2` steps do exactly what the spec's `Frame(f)` does, and end at the start of the next frame or halted. -/
def Obligations.StepsRealiseFrame : Prop :=
  ∀ s : State, s.run = .running → s.phase = .frameStart →
    ∃ (k : Nat) (t : State), k ≤ s.cfg.ipf + 2 ∧ Host.Core.run Sys2Proof.core k s = .next t ∧
      { t with phase := .frameStart } =
        { frameWith (Config.keysIn s.frame) (Config.quitIn s.frame) s with phase := .frameStart } ∧
      (t.run = .halted ∨ t.phase = .frameStart)

/-! ## Invariants and whole-machine rules -/

/-- 49_frame_scheduler.md section 5 (R260, derived by the spec; log entries 1, 16): every step keeps the invariant. -/
def Obligations.StepKeepsInvariant : Prop :=
  ∀ s t : State, Inv s → step s = .next t → Inv t

/-- 49_frame_scheduler.md section 5 (R260): the invariant holds after reset. -/
def Obligations.ResetMeetsInvariant : Prop := Inv State.reset

/-- 49_frame_scheduler.md section 5 (R260; the spec's decision D33; log entry 2): every step keeps the latch equal to the last two samples of the input source. -/
def Obligations.StepKeepsLatchSamples : Prop :=
  ∀ s t : State, LatchHoldsSamples s → step s = .next t → LatchHoldsSamples t

/-- 10_state.md section 7 (R40, R41; the spec's decision D33): after reset no sample was taken and the latch is all up. -/
def Obligations.ResetLatchHoldsNoSample : Prop := LatchHoldsSamples State.reset

/-- 70_reset_and_hazards.md section 1 (R313, with the spec's decisions D3, D4; log entry 3): no step changes a parameter. -/
def Obligations.StepKeepsParameters : Prop :=
  ∀ s t : State, step s = .next t → t.cfg = s.cfg

/-- 49_frame_scheduler.md sections 1 and 4 (R241, R254, R256; log entry 8): the sinks hear from the core only when a frame ends, at most once each, present before beep, with that frame's number. -/
def Obligations.SinksHearAtFrameEndOnly : Prop :=
  ∀ s t : State, step s = .next t →
    t.events = s.events ∨
    (t.phase = .frameStart ∧
      (t.events = s.events ++ [.present s.frame (packedView s.fb)] ∨ t.events = s.events ++ [.beep s.frame] ∨
        t.events = s.events ++ [.present s.frame (packedView s.fb), .beep s.frame]))

/-- 70_reset_and_hazards.md section 1 (R310; the spec's decisions D6, D24, D30): what reset leaves, for every font of 80 bytes and every program image. -/
def Obligations.ResetLoadsFontAndImage : Prop :=
  ∀ (cfg : Params) (font rom : List Byte), font.length = 80 →
    (∀ a < 4096, Memory.read (resetWith cfg font rom).mem a =
      if a < 80 then font.getD a 0
      else if 0x200 ≤ a ∧ a - 0x200 < min rom.length 3584 then rom.getD (a - 0x200) 0 else 0) ∧
    Memory.wf (resetWith cfg font rom).mem ∧
    resetWith cfg font rom = { State.reset with cfg := cfg, mem := (resetWith cfg font rom).mem } ∧
    (∀ j, reg State.reset j = 0) ∧ State.reset.i = 0 ∧ State.reset.pc = 0x0200 ∧ State.reset.sp = 0 ∧
    State.reset.dt = 0 ∧ State.reset.st = 0 ∧ State.reset.run = .running ∧ State.reset.fault.valid = false ∧
    State.reset.wait = false ∧ State.reset.dirty = false ∧ State.reset.keyCur = 0 ∧ State.reset.keyPrev = 0 ∧
    (∀ y x, pixel State.reset.fb y x = false)

/-- 70_reset_and_hazards.md section 1 (R310) and 20_memory.md section 5: the state named `State.reset` is reset with an empty image, the default font and the machine's parameters (log entries 3, 9, 10). -/
def Obligations.ResetIsEmptyImageReset : Prop :=
  resetWith Config.params Config.font [] = State.reset

/-- 10_state.md section 1 (table R21, derived by the spec): an instruction writes no general register but those the table names for it. -/
def Obligations.RegistersWrittenAsTabled : Prop :=
  ∀ (i : Instr) (s t : State) (j : Nibble), exec i s = .next t → writesReg i j = false → reg t j = reg s j

/-- Files 40 to 44 and 49_frame_scheduler.md section 1 (R241): the effect of an instruction outside `V`, `PC`, memory and the fault state is what its own rule names; no instruction moves a timer, the latch, the frame or the sinks by itself. -/
def Obligations.OtherStateWrittenAsNamed : Prop :=
  ∀ (i : Instr) (s t : State), exec i s = .next t → OtherStateKept i s t

/-- 20_memory.md section 1 (table R63; whole-block checks are the spec's decision D11): every byte outside the block an instruction stores to reads as before, and an instruction that stores nothing leaves all of memory as it is. -/
def Obligations.MemoryWrittenAsTabled : Prop :=
  ∀ (i : Instr) (s t : State), exec i s = .next t →
    (∀ a, ¬ (s.i.toNat ≤ a ∧ a < s.i.toNat + storeLength i) → Memory.read t.mem a = Memory.read s.mem a) ∧
    (storeLength i = 0 → t.mem = s.mem)

/-- 20_memory.md section 1 (table R63): what an instruction that stores nothing does depends on memory only through the block the table says it reads. -/
def Obligations.MemoryReadAsTabled : Prop :=
  ∀ (i : Instr) (s t : State) (m : List Host.Cell), storeLength i = 0 →
    (∀ a, s.i.toNat ≤ a → a < s.i.toNat + loadLength i → Memory.read m a = Memory.read s.mem a) →
    exec i s = .next t → exec i { s with mem := m } = .next { t with mem := m }

/-- 10_state.md section 8 (R53) and 20_memory.md section 6 (R80): no instruction but `Dxyn` reads the framebuffer; with another framebuffer it does the same to everything else. -/
def Obligations.FramebufferReadByDrawOnly : Prop :=
  ∀ (i : Instr) (s t : State) (f : Framebuffer), (∀ x y n, i ≠ .drw x y n) → exec i s = .next t →
    ∃ g, exec i { s with fb := f } = .next { t with fb := g } ∧ (i ≠ .cls → g = f)

/-- 10_state.md section 8 (R50; the list form is the model's own, log entry 9): two canonical memories that read alike at all 4096 addresses are the same data. -/
def Obligations.CanonicalMemoriesReadAlikeEqual : Prop :=
  ∀ m m' : List Host.Cell, Memory.wf m → Memory.wf m' →
    (∀ a < 4096, Memory.read m a = Memory.read m' a) → m = m'

/-! ## Control flow -/

/-- R122: `1nnn` goes to `nnn`, for every `nnn`, and changes nothing else. -/
def Obligations.JumpGoesToImmediate : Prop :=
  ∀ (nnn : Imm12) (s : State), ∃ t, exec (.jp nnn) s = .next t ∧
    t.pc.toNat = nnn.toNat ∧ t = { s with pc := t.pc }

/-- 40_control_flow.md section 2 (R128; the sum is not masked by the spec's decision D10): `Bnnn` goes to `nnn + V0` and changes nothing else. -/
def Obligations.JumpWithOffsetAddsV0 : Prop :=
  ∀ (nnn : Imm12) (s : State), ∃ t, exec (.jpV0 nnn) s = .next t ∧
    t.pc.toNat = nnn.toNat + (reg s 0).toNat ∧ t = { s with pc := t.pc }

/-- 40_control_flow.md section 2 (R123): `2nnn` pushes the address after it and goes to `nnn`, or raises `StackOverflow` when `SP = 16` with nothing else written; that clause rests on R276 and R279, the spec's decisions D11, D12, D13 (log entry 12). -/
def Obligations.CallPushesReturnAddress : Prop :=
  ∀ (nnn : Imm12) (s : State),
    (s.sp.val < 16 → ∃ t, exec (.call nnn) s = .next t ∧ t.pc.toNat = nnn.toNat ∧
      t.sp.val = s.sp.val + 1 ∧
      (∀ k : Fin 16, t.stack[k] = if k.val = s.sp.val then s.pc + 2 else s.stack[k]) ∧
      t = { s with pc := t.pc, sp := t.sp, stack := t.stack }) ∧
    (s.sp.val = 16 → ∃ t, exec (.call nnn) s = .next t ∧ t.fault.valid = true ∧ t.fault.kind = .stackOverflow ∧
      t = { s with fault := t.fault, run := .halted })

/-- 40_control_flow.md section 2 (R121): `00EE` pops the newest entry into `PC`, the slot keeping its contents, or raises `StackUnderflow` when `SP = 0` with nothing else written; that clause rests on R276 and R279, the spec's decisions D11, D12, D13 (log entry 12). -/
def Obligations.ReturnPopsNewestEntry : Prop :=
  ∀ s : State,
    (∀ k : Fin 16, s.sp.val = k.val + 1 → ∃ t, exec .ret s = .next t ∧ t.pc = s.stack[k] ∧
      t.sp.val = k.val ∧ t = { s with pc := t.pc, sp := t.sp }) ∧
    (s.sp.val = 0 → ∃ t, exec .ret s = .next t ∧ t.fault.valid = true ∧ t.fault.kind = .stackUnderflow ∧
      t = { s with fault := t.fault, run := .halted })

/-- 10_state.md section 4 (R32; the layout is the spec's decision D27): a return right after a call comes back to the instruction after the call with the stack as deep as before; only the freed slot differs. -/
def Obligations.ReturnAfterCallComesBack : Prop :=
  ∀ (nnn : Imm12) (s : State), s.sp.val < 16 → ∃ t u, exec (.call nnn) s = .next t ∧
    exec .ret t = .next u ∧ u = { s with pc := s.pc + 2, stack := u.stack } ∧
    (∀ k : Fin 16, k.val < s.sp.val → u.stack[k] = s.stack[k])

/-- R124, R125, R126, R127: each of the four register skips goes two words on if its condition holds and one word on if not, for every choice of registers, and changes nothing else. -/
def Obligations.RegisterSkipsTestOperands : Prop :=
  ∀ (x y : Nibble) (nn : Byte) (s : State),
    exec (.skipEqImm x nn) s = .next { s with pc := if (reg s x).toNat = nn.toNat then s.pc + 4 else s.pc + 2 } ∧
    exec (.skipNeImm x nn) s = .next { s with pc := if (reg s x).toNat = nn.toNat then s.pc + 2 else s.pc + 4 } ∧
    exec (.skipEqReg x y) s = .next { s with pc := if (reg s x).toNat = (reg s y).toNat then s.pc + 4 else s.pc + 2 } ∧
    exec (.skipNeReg x y) s = .next { s with pc := if (reg s x).toNat = (reg s y).toNat then s.pc + 2 else s.pc + 4 }

/-- 40_control_flow.md section 2 (R129): a word that selects no assigned row executes as a no-op: `PC` moves on by 2 and nothing else changes, and so does every `UNKNOWN` term. -/
def Obligations.UnknownWordIsNop : Prop :=
  ∀ (w : Word) (s : State),
    ((∀ r ∈ opcodeRows, r.selects w = false) → exec (decodeWord w) s = .next { s with pc := s.pc + 2 }) ∧
    exec (.unknown w) s = .next { s with pc := s.pc + 2 }

/-! ## Arithmetic and logic -/

/-- R154, R156: `6xnn` loads the immediate and `8xy0` copies `Vy`, each into `Vx` whichever register that is, with no flag. -/
def Obligations.LoadsWriteTheirRegister : Prop :=
  ∀ (x y : Nibble) (nn : Byte) (s : State),
    (∃ t, exec (.ldImm x nn) s = .next t ∧ (∀ j, reg t j = if j = x then nn else reg s j) ∧
      t = { s with v := t.v, pc := s.pc + 2 }) ∧
    (∃ t, exec (.ldReg x y) s = .next t ∧ (∀ j, reg t j = if j = x then reg s y else reg s j) ∧
      t = { s with v := t.v, pc := s.pc + 2 })

/-- 41_alu.md section 2 (R157, R158, R159; no flag by the spec's decision D28): OR, AND and XOR bit by bit into `Vx`, and no other register is written. -/
def Obligations.LogicWorksBitByBit : Prop :=
  ∀ (x y : Nibble) (s : State),
    (∃ t, exec (.orReg x y) s = .next t ∧
      (∀ k, (reg t x).getLsbD k = ((reg s x).getLsbD k || (reg s y).getLsbD k)) ∧
      (∀ j, j ≠ x → reg t j = reg s j) ∧ t = { s with v := t.v, pc := s.pc + 2 }) ∧
    (∃ t, exec (.andReg x y) s = .next t ∧
      (∀ k, (reg t x).getLsbD k = ((reg s x).getLsbD k && (reg s y).getLsbD k)) ∧
      (∀ j, j ≠ x → reg t j = reg s j) ∧ t = { s with v := t.v, pc := s.pc + 2 }) ∧
    (∃ t, exec (.xorReg x y) s = .next t ∧
      (∀ k, (reg t x).getLsbD k = ((reg s x).getLsbD k ^^ (reg s y).getLsbD k)) ∧
      (∀ j, j ≠ x → reg t j = reg s j) ∧ t = { s with v := t.v, pc := s.pc + 2 })

/-- R155: `7xnn` adds the immediate mod 256 and writes no flag. -/
def Obligations.AddImmediateWraps : Prop :=
  ∀ (x : Nibble) (nn : Byte) (s : State), ∃ t, exec (.addImm x nn) s = .next t ∧
    (reg t x).toNat = ((reg s x).toNat + nn.toNat) % 256 ∧
    (∀ j, j ≠ x → reg t j = reg s j) ∧ t = { s with v := t.v, pc := s.pc + 2 }

/-- R160: `8xy4` writes the sum mod 256 to `Vx` and last the carry to `VF`, from the old operands, for every choice of registers. -/
def Obligations.AddWritesCarry : Prop :=
  ∀ (x y : Nibble) (s : State), ∃ t, exec (.addReg x y) s = .next t ∧
    (∀ j, (reg t j).toNat =
      if j = 0xF then (if (reg s x).toNat + (reg s y).toNat > 255 then 1 else 0)
      else if j = x then ((reg s x).toNat + (reg s y).toNat) % 256 else (reg s j).toNat) ∧
    t = { s with v := t.v, pc := s.pc + 2 }

/-- R161, R164: `8xy5` and `8xy7` write the difference mod 256 to `Vx` and last the absence of a borrow to `VF`, from the old operands, for every choice of registers. -/
def Obligations.SubtractsWriteNoBorrow : Prop :=
  ∀ (x y : Nibble) (s : State),
    (∃ t, exec (.subReg x y) s = .next t ∧
      (∀ j, ((reg t j).toNat : Int) =
        if j = 0xF then (if (reg s x).toNat ≥ (reg s y).toNat then 1 else 0)
        else if j = x then (((reg s x).toNat : Int) - (reg s y).toNat) % 256 else (reg s j).toNat) ∧
      t = { s with v := t.v, pc := s.pc + 2 }) ∧
    (∃ t, exec (.subnReg x y) s = .next t ∧
      (∀ j, ((reg t j).toNat : Int) =
        if j = 0xF then (if (reg s y).toNat ≥ (reg s x).toNat then 1 else 0)
        else if j = x then (((reg s y).toNat : Int) - (reg s x).toNat) % 256 else (reg s j).toNat) ∧
      t = { s with v := t.v, pc := s.pc + 2 })

/-- 41_alu.md section 2 (R163, R165, with R162; the parameter is the spec's decision D3, log entry 3, and that `Vy` keeps its value its decision D29, log entry 15): `8xy6` and `8xyE` shift `Vx` or `Vy`, as the parameter says, by one place into `Vx` and write last the bit shifted out to `VF`, for every choice of registers. -/
def Obligations.ShiftsWriteBitOut : Prop :=
  ∀ (x y : Nibble) (s : State) (b : Nat),
    b = (if s.cfg.shiftSource = .vx then (reg s x).toNat else (reg s y).toNat) →
    (∃ t, exec (.shr x y) s = .next t ∧
      (∀ j, (reg t j).toNat = if j = 0xF then b % 2 else if j = x then b / 2 else (reg s j).toNat) ∧
      t = { s with v := t.v, pc := s.pc + 2 }) ∧
    (∃ t, exec (.shl x y) s = .next t ∧
      (∀ j, (reg t j).toNat = if j = 0xF then b / 128 else if j = x then 2 * b % 256 else (reg s j).toNat) ∧
      t = { s with v := t.v, pc := s.pc + 2 })

/-- 41_alu.md section 2 (R166; the spec's decision D23; the byte is a free value, log entry 2): `Cxnn` makes one draw and writes the byte under the mask to `Vx`, with no flag. -/
def Obligations.RandomByteUnderMask : Prop :=
  ∀ (x : Nibble) (nn : Byte) (s : State), ∃ t, exec (.rnd x nn) s = .next t ∧
    (∀ j, reg t j = if j = x then Config.randByte s.draws &&& nn else reg s j) ∧
    t = { s with v := t.v, draws := s.draws + 1, pc := s.pc + 2 }

/-! ## Index register and memory -/

/-- R181: `Annn` loads `I` with the address, bits 15..12 becoming 0, and changes nothing else. -/
def Obligations.LoadIndexZeroExtends : Prop :=
  ∀ (nnn : Imm12) (s : State), ∃ t, exec (.ldI nnn) s = .next t ∧ t.i.toNat = nnn.toNat ∧
    t = { s with i := t.i, pc := s.pc + 2 }

/-- 42_index_memory.md section 2 (R182, R184; the spec's decisions D9, D15): `Fx1E` adds `Vx` to `I` mod 2^16 and `Fx29` sets `I` to five times `Vx`, for every value of `Vx`; no flag. -/
def Obligations.IndexArithmetic : Prop :=
  ∀ (x : Nibble) (s : State),
    (∃ t, exec (.addI x) s = .next t ∧ t.i.toNat = (s.i.toNat + (reg s x).toNat) % 65536 ∧
      t = { s with i := t.i, pc := s.pc + 2 }) ∧
    (∃ t, exec (.ldGlyph x) s = .next t ∧ t.i.toNat = (reg s x).toNat * 5 ∧
      t = { s with i := t.i, pc := s.pc + 2 })

/-- 42_index_memory.md section 2 (R185): with `I + 2` inside memory `Fx33` stores hundreds, tens and ones of `Vx` at `I`, `I + 1`, `I + 2` and no other byte; with `I + 2` outside it raises `OutOfBoundsFetch` with nothing written; that clause rests on the spec's decisions D8, D11, D12, D13 (log entries 11, 12). -/
def Obligations.BcdStoresThreeDigits : Prop :=
  ∀ (x : Nibble) (s : State),
    (s.i.toNat + 2 ≤ 4095 → ∃ t, exec (.storeBcd x) s = .next t ∧
      (Memory.read t.mem s.i.toNat).toNat = (reg s x).toNat / 100 ∧
      (Memory.read t.mem (s.i.toNat + 1)).toNat = (reg s x).toNat / 10 % 10 ∧
      (Memory.read t.mem (s.i.toNat + 2)).toNat = (reg s x).toNat % 10 ∧
      (∀ a, ¬ (s.i.toNat ≤ a ∧ a ≤ s.i.toNat + 2) → Memory.read t.mem a = Memory.read s.mem a) ∧
      t = { s with mem := t.mem, pc := s.pc + 2 }) ∧
    (s.i.toNat + 2 > 4095 → ∃ t, exec (.storeBcd x) s = .next t ∧ t.fault.valid = true ∧ t.fault.kind = .outOfBoundsFetch ∧
      t = { s with fault := t.fault, run := .halted })

/-- 42_index_memory.md section 2 (R186; the spec's decisions D4, D5): with `I + x` inside memory `Fx55` stores `V0..Vx` at `I..I+x` and no other byte, and advances `I` by `x + 1` exactly if the parameter says so. -/
def Obligations.StoreRegistersFillsBlock : Prop :=
  ∀ (x : Nibble) (s : State), s.i.toNat + x.toNat ≤ 4095 → ∃ t, exec (.storeRegs x) s = .next t ∧
    (∀ j : Nibble, j.toNat ≤ x.toNat → Memory.read t.mem (s.i.toNat + j.toNat) = reg s j) ∧
    (∀ a, ¬ (s.i.toNat ≤ a ∧ a ≤ s.i.toNat + x.toNat) → Memory.read t.mem a = Memory.read s.mem a) ∧
    t.i.toNat = (if s.cfg.loadStoreAdvancesI = true then s.i.toNat + x.toNat + 1 else s.i.toNat) ∧
    t = { s with mem := t.mem, i := t.i, pc := s.pc + 2 }

/-- 42_index_memory.md section 2 (R187; the spec's decisions D4, D5): with `I + x` inside memory `Fx65` loads `V0..Vx` from `I..I+x`, no other register, and advances `I` by `x + 1` exactly if the parameter says so. -/
def Obligations.LoadRegistersReadsBlock : Prop :=
  ∀ (x : Nibble) (s : State), s.i.toNat + x.toNat ≤ 4095 → ∃ t, exec (.loadRegs x) s = .next t ∧
    (∀ j : Nibble, reg t j =
      if j.toNat ≤ x.toNat then Memory.read s.mem (s.i.toNat + j.toNat) else reg s j) ∧
    t.i.toNat = (if s.cfg.loadStoreAdvancesI = true then s.i.toNat + x.toNat + 1 else s.i.toNat) ∧
    t = { s with v := t.v, i := t.i, pc := s.pc + 2 }

/-- 42_index_memory.md section 2 (R186, R187; the spec's decision D5): registers stored by `Fx55` come back by an `Fx65` at the same address, whatever the registers held in between. -/
def Obligations.LoadAfterStoreRestores : Prop :=
  ∀ (x : Nibble) (s : State) (v : Regs), s.i.toNat + x.toNat ≤ 4095 →
    ∃ t u, exec (.storeRegs x) s = .next t ∧ exec (.loadRegs x) { t with i := s.i, v := v } = .next u ∧
      (∀ j : Nibble, j.toNat ≤ x.toNat → reg u j = reg s j) ∧ u.mem = t.mem

/-! ## Display -/

/-- 43_display.md section 2 (R201; `DIRTY` on a blank framebuffer is the spec's decision D19): `00E0` turns every pixel off, sets `DIRTY` and changes nothing else. -/
def Obligations.ClearTurnsPixelsOff : Prop :=
  ∀ s : State, ∃ t, exec .cls s = .next t ∧ (∀ y x, pixel t.fb y x = false) ∧
    t = { s with fb := t.fb, dirty := true, pc := s.pc + 2 }

/-- 43_display.md sections 1 and 2 (R200, R202; the spec's decisions D11, D16, D17, D18, D19): `Dxyn` inverts exactly the pixels of the torus its sprite covers, and writes to `VF`, last, whether one of them was on. -/
def Obligations.DrawInvertsCoveredPixels : Prop :=
  ∀ (x y n : Nibble) (s : State), (n.toNat = 0 ∨ s.i.toNat + n.toNat ≤ 4096) →
    ∃ t, exec (.drw x y n) s = .next t ∧
      (∀ py px, pixel t.fb py px = (pixel s.fb py px ^^ spriteCovers x y n s py px)) ∧
      (reg t 0xF = 0 ∨ reg t 0xF = 1) ∧
      (reg t 0xF = 1 ↔ ∃ py px, pixel s.fb py px = true ∧ spriteCovers x y n s py px = true) ∧
      (∀ j, j ≠ 0xF → reg t j = reg s j) ∧
      t = { s with v := t.v, fb := t.fb, dirty := true, pc := s.pc + 2 }

/-- 43_display.md section 2 (R203, derived by the spec; bit order by D17): the pixel form of the blit and the byte form on the packed view are the same function. -/
def Obligations.BlitEqualsByteForm : Prop :=
  ∀ (fb : Framebuffer) (coll : Bool) (x0 y0 : Nat) (rows : List Byte), x0 < 64 →
    packedView (blitRows x0 y0 rows (fb, coll)).1 = (blitRowsBytes x0 y0 rows (packedView fb, coll)).1 ∧
    (blitRows x0 y0 rows (fb, coll)).2 = (blitRowsBytes x0 y0 rows (packedView fb, coll)).2

/-- 43_display.md section 2 (R204, derived by the spec; which pixels are covered rests on R200 in section 1, the spec's decisions D17 and D18, log entry 13): drawing the same sprite at the same place twice restores the framebuffer, and the second draw reports a collision exactly if the sprite covered a pixel that was off before the first. -/
def Obligations.SecondDrawRestores : Prop :=
  ∀ (x y n : Nibble) (s : State), x ≠ 0xF → y ≠ 0xF → (n.toNat = 0 ∨ s.i.toNat + n.toNat ≤ 4096) →
    ∃ t u, exec (.drw x y n) s = .next t ∧ exec (.drw x y n) t = .next u ∧ u.fb = s.fb ∧
      (reg u 0xF = 1 ↔ ∃ py px, pixel s.fb py px = false ∧ spriteCovers x y n s py px = true)

/-! ## Keys and timers -/

/-- 44_keys_timers.md sections 1 and 2 (R220, R221, R222; the low nibble is the spec's decision D14): `Ex9E` and `ExA1` skip on the state of the key `Vx mod 16` in the current latch, for every value of `Vx`, and change nothing else. -/
def Obligations.KeySkipsTestLatch : Prop :=
  ∀ (x : Nibble) (s : State),
    exec (.skipKey x) s = .next { s with
      pc := if s.keyCur.getLsbD ((reg s x).toNat % 16) = true then s.pc + 4 else s.pc + 2 } ∧
    exec (.skipNotKey x) s = .next { s with
      pc := if s.keyCur.getLsbD ((reg s x).toNat % 16) = true then s.pc + 2 else s.pc + 4 }

/-- 44_keys_timers.md section 2 (R223, R224, R225; which code does what is general knowledge in the spec, G3): `Fx07` reads `DT`, `Fx15` writes `DT`, `Fx18` writes `ST`, each with no other effect. -/
def Obligations.TimerTransfers : Prop :=
  ∀ (x : Nibble) (s : State),
    (∃ t, exec (.readDelay x) s = .next t ∧ (∀ j, reg t j = if j = x then s.dt else reg s j) ∧
      t = { s with v := t.v, pc := s.pc + 2 }) ∧
    exec (.writeDelay x) s = .next { s with dt := reg s x, pc := s.pc + 2 } ∧
    exec (.writeSound x) s = .next { s with st := reg s x, pc := s.pc + 2 }

/-- 44_keys_timers.md section 2 (R232; the spec's decision D20): `Fx0A` activates the wait for register `x` with `PC` held and no register read or written, and the next step of a running batch ends the frame whatever cycles were left. -/
def Obligations.WaitKeyHoldsAndEndsBatch : Prop :=
  ∀ (x : Nibble) (s : State), ∃ t, exec (.waitKey x) s = .next t ∧
    t = { s with wait := true, waitReg := x } ∧
    (∀ left, s.run = .running → s.phase = .batch left → step t = .next (endFrame t))
end

