-- ==== Sys2Proof/Laws/Decode.lean ====
section
/-! SUPPORT. The fields of a packed word are the fields it was packed from, and a word is packed from its own fields (30_encoding.md R92, R93). -/

namespace Sys2Proof

@[simp] theorem fieldOp_packNibbles (op x y n : Nibble) : fieldOp (packNibbles op x y n) = op := by
  unfold fieldOp packNibbles
  refine BitVec.eq_of_getLsbD_eq fun i hi => ?_
  interval_cases i <;> simp

@[simp] theorem fieldX_packNibbles (op x y n : Nibble) : fieldX (packNibbles op x y n) = x := by
  unfold fieldX packNibbles
  refine BitVec.eq_of_getLsbD_eq fun i hi => ?_
  interval_cases i <;> simp

@[simp] theorem fieldY_packNibbles (op x y n : Nibble) : fieldY (packNibbles op x y n) = y := by
  unfold fieldY packNibbles
  refine BitVec.eq_of_getLsbD_eq fun i hi => ?_
  interval_cases i <;> simp

@[simp] theorem fieldN_packNibbles (op x y n : Nibble) : fieldN (packNibbles op x y n) = n := by
  unfold fieldN packNibbles
  refine BitVec.eq_of_getLsbD_eq fun i hi => ?_
  interval_cases i <;> simp

@[simp] theorem fieldOp_packImm (op x : Nibble) (nn : Byte) : fieldOp (packImm op x nn) = op := by
  unfold fieldOp packImm
  refine BitVec.eq_of_getLsbD_eq fun i hi => ?_
  interval_cases i <;> simp

@[simp] theorem fieldX_packImm (op x : Nibble) (nn : Byte) : fieldX (packImm op x nn) = x := by
  unfold fieldX packImm
  refine BitVec.eq_of_getLsbD_eq fun i hi => ?_
  interval_cases i <;> simp

@[simp] theorem fieldNn_packImm (op x : Nibble) (nn : Byte) : fieldNn (packImm op x nn) = nn := by
  unfold fieldNn packImm
  refine BitVec.eq_of_getLsbD_eq fun i hi => ?_
  interval_cases i <;> simp

@[simp] theorem fieldOp_packAddr (op : Nibble) (nnn : Imm12) : fieldOp (packAddr op nnn) = op := by
  unfold fieldOp packAddr
  refine BitVec.eq_of_getLsbD_eq fun i hi => ?_
  interval_cases i <;> simp

@[simp] theorem fieldNnn_packAddr (op : Nibble) (nnn : Imm12) : fieldNnn (packAddr op nnn) = nnn := by
  unfold fieldNnn packAddr
  refine BitVec.eq_of_getLsbD_eq fun i hi => ?_
  interval_cases i <;> simp

theorem packNibbles_fields (w : Word) : packNibbles (fieldOp w) (fieldX w) (fieldY w) (fieldN w) = w := by
  unfold packNibbles fieldOp fieldX fieldY fieldN
  refine BitVec.eq_of_getLsbD_eq fun i hi => ?_
  interval_cases i <;> simp

theorem packImm_fields (w : Word) : packImm (fieldOp w) (fieldX w) (fieldNn w) = w := by
  unfold packImm fieldOp fieldX fieldNn
  refine BitVec.eq_of_getLsbD_eq fun i hi => ?_
  interval_cases i <;> simp

theorem packAddr_fields (w : Word) : packAddr (fieldOp w) (fieldNnn w) = w := by
  unfold packAddr fieldOp fieldNnn
  refine BitVec.eq_of_getLsbD_eq fun i hi => ?_
  interval_cases i <;> simp

/-- Laying a word out as bytes and putting it together again gives the word (20_memory.md R64). -/
theorem decodeBytes_bytesOfWord (w : Word) (rest : List Byte) :
    decodeBytes (bytesOfWord w ++ rest) = .ok (decodeWord w, rest) := by
  have : wordOfBytes (w.extractLsb' 8 8) (w.extractLsb' 0 8) = w := by
    unfold wordOfBytes
    refine BitVec.eq_of_getLsbD_eq fun i hi => ?_
    rw [BitVec.getLsbD_append]
    interval_cases i <;> simp
  simp [bytesOfWord, decodeBytes, this]

end Sys2Proof
end

