-- ==== Sys2Proof/Laws/Memory.lean ====
section
/-! SUPPORT. The laws of memory: read after write, the blocks, and that every memory operation keeps the canonical form. -/

namespace Sys2Proof.Machine

theorem Memory.wf_nil : Memory.wf [] := by simp [Memory.wf]

/-- Reading a memory with a cell put in: the cell at its address, the rest elsewhere, if the address was not listed. -/
theorem Memory.read_insertCell (m : List Host.Cell) (a c : Nat) (b : Byte) (h : ∀ e ∈ m, e.1 ≠ a) :
    Memory.read (Memory.insertCell a b m) c = if c = a then b else Memory.read m c := by
  induction m with
  | nil => simp [Memory.insertCell, Memory.read, eq_comm]
  | cons e rest ih =>
    obtain ⟨k, v⟩ := e
    have hk : k ≠ a := h (k, v) (by simp)
    have ih := ih fun e he => h e (by simp [he])
    simp only [Memory.insertCell]
    split
    · simp [Memory.read, eq_comm]
    · simp only [Memory.read, ih]
      by_cases hc : k = c
      · subst hc; simp [hk]
      · simp [hc]

theorem Memory.read_forget_ne (m : List Host.Cell) (a c : Nat) (h : c ≠ a) :
    Memory.read (Memory.forget m a) c = Memory.read m c := by
  induction m with
  | nil => rfl
  | cons e rest ih =>
    obtain ⟨k, v⟩ := e
    simp only [Memory.forget] at ih ⊢
    by_cases hk : k = a
    · subst hk; simp [Memory.read, ih, Ne.symm h]
    · simp [hk, Memory.read, ih]

theorem Memory.read_forget_same (m : List Host.Cell) (a : Nat) :
    Memory.read (Memory.forget m a) a = Memory.unlisted a := by
  induction m with
  | nil => rfl
  | cons e rest ih =>
    obtain ⟨k, v⟩ := e
    simp only [Memory.forget] at ih ⊢
    by_cases hk : k = a
    · subst hk; simp [ih]
    · simp [hk, Memory.read, ih]

/-- A read after a write, in every memory: the byte written at its address, the old byte elsewhere. -/
theorem Memory.read_write (m : List Host.Cell) (a c : Nat) (b : Byte) :
    Memory.read (Memory.write m a b) c = if c = a then b else Memory.read m c := by
  unfold Memory.write
  by_cases hc : c = a
  · subst hc
    split
    · simp [Memory.read_forget_same, *]
    · rw [Memory.read_insertCell _ _ _ _ (by simp [Memory.forget])]; simp
  · split
    · simp [Memory.read_forget_ne _ _ _ hc]
    · rw [Memory.read_insertCell _ _ _ _ (by simp [Memory.forget])]
      simp [hc, Memory.read_forget_ne _ _ _ hc]

/-- A read after a block write: the byte of the block inside it, the old byte outside. -/
theorem Memory.read_writeBlock (m : List Host.Cell) (a c : Nat) (bs : List Byte) :
    Memory.read (Memory.writeBlock m a bs) c =
      if a ≤ c ∧ c < a + bs.length then bs.getD (c - a) 0 else Memory.read m c := by
  induction bs generalizing m a with
  | nil => simp [Memory.writeBlock, show ¬ (a ≤ c ∧ c < a) by omega]
  | cons b rest ih =>
    simp only [Memory.writeBlock, ih, Memory.read_write, List.length_cons]
    by_cases h1 : a + 1 ≤ c ∧ c < a + 1 + rest.length
    · rw [if_pos h1, if_pos (by omega), show c - a = c - (a + 1) + 1 by omega, List.getD_cons_succ]
    · rw [if_neg h1]
      by_cases h2 : c = a
      · subst h2; simp
      · rw [if_neg h2, if_neg (by omega)]

theorem Memory.readBlock_length (m : List Host.Cell) (a n : Nat) :
    (Memory.readBlock m a n).length = n := by
  induction n generalizing a with
  | zero => rfl
  | succ n ih => simp [Memory.readBlock, ih]

/-- The bytes of a block are the bytes of memory at its addresses. -/
theorem Memory.readBlock_getD (m : List Host.Cell) (a n k : Nat) (h : k < n) :
    (Memory.readBlock m a n).getD k 0 = Memory.read m (a + k) := by
  induction n generalizing a k with
  | zero => omega
  | succ n ih =>
    cases k with
    | zero => simp [Memory.readBlock]
    | succ k => simp only [Memory.readBlock, List.getD_cons_succ, ih (a + 1) k (by omega)]; congr 1; omega

/-- Two memories that agree on a block have the same bytes there. -/
theorem Memory.readBlock_congr (m m' : List Host.Cell) (a n : Nat)
    (h : ∀ c, a ≤ c → c < a + n → Memory.read m c = Memory.read m' c) :
    Memory.readBlock m a n = Memory.readBlock m' a n := by
  induction n generalizing a with
  | zero => rfl
  | succ n ih =>
    simp only [Memory.readBlock, h a (by omega) (by omega)]
    rw [ih (a + 1) fun c h1 h2 => h c (by omega) (by omega)]

theorem Memory.mem_insertCell (m : List Host.Cell) (a : Nat) (b : Byte) (e : Host.Cell) :
    e ∈ Memory.insertCell a b m ↔ e = (a, b) ∨ e ∈ m := by
  induction m with
  | nil => simp [Memory.insertCell]
  | cons c rest ih =>
    obtain ⟨k, v⟩ := c
    simp only [Memory.insertCell]
    split <;> simp [ih]; tauto

theorem Memory.rising_insertCell (m : List Host.Cell) (a : Nat) (b : Byte)
    (hm : (m.map Prod.fst).Pairwise (· < ·)) (h : ∀ e ∈ m, e.1 ≠ a) :
    ((Memory.insertCell a b m).map Prod.fst).Pairwise (· < ·) := by
  induction m with
  | nil => simp [Memory.insertCell]
  | cons c rest ih =>
    obtain ⟨k, v⟩ := c
    have hk : k ≠ a := h (k, v) (by simp)
    simp only [List.map_cons, List.pairwise_cons] at hm
    have ih := ih hm.2 fun e he => h e (by simp [he])
    simp only [Memory.insertCell]
    split
    · rename_i hlt
      simp only [List.map_cons, List.pairwise_cons]
      refine ⟨fun x hx => ?_, hm⟩
      rcases List.mem_cons.mp hx with rfl | hx
      · exact hlt
      · exact lt_trans hlt (hm.1 x hx)
    · simp only [List.map_cons, List.pairwise_cons]
      refine ⟨fun x hx => ?_, ih⟩
      obtain ⟨e, he, rfl⟩ := List.mem_map.mp hx
      rcases (Memory.mem_insertCell ..).mp he with rfl | he
      · simp only; omega
      · exact hm.1 _ (List.mem_map_of_mem he)

theorem Memory.wf_forget (m : List Host.Cell) (a : Nat) (h : Memory.wf m) :
    Memory.wf (Memory.forget m a) :=
  ⟨h.1.sublist (List.filter_sublist.map _), fun c hc => h.2 c (List.mem_of_mem_filter hc)⟩

/-- Every write inside memory keeps the canonical form. -/
theorem Memory.wf_write (m : List Host.Cell) (a : Nat) (b : Byte) (h : Memory.wf m)
    (ha : a < Config.memSize) : Memory.wf (Memory.write m a b) := by
  have hf := Memory.wf_forget m a h
  unfold Memory.write
  split
  · exact hf
  · refine ⟨Memory.rising_insertCell _ _ _ hf.1 (by simp [Memory.forget]), fun c hc => ?_⟩
    rcases (Memory.mem_insertCell ..).mp hc with rfl | hc
    · exact ⟨ha, ‹_›⟩
    · exact hf.2 c hc

/-- Every block write inside memory keeps the canonical form. -/
theorem Memory.wf_writeBlock (m : List Host.Cell) (a : Nat) (bs : List Byte) (h : Memory.wf m)
    (ha : a + bs.length ≤ Config.memSize) : Memory.wf (Memory.writeBlock m a bs) := by
  induction bs generalizing m a with
  | nil => exact h
  | cons b rest ih =>
    simp only [List.length_cons] at ha
    exact ih _ _ (Memory.wf_write m a b h (by omega)) (by omega)

end Sys2Proof.Machine
end

