-- ==== Sys2Proof/Laws/State.lean ====
section
/-! SUPPORT. One lemma for each field under each named update of the state, so that no proof unfolds an update. -/

namespace Sys2Proof.Machine

/-! ## `setReg` -/

@[simp] theorem setReg_v (s : State) (x : Nibble) (b : Byte) : (setReg s x b).v = s.v.set x.toNat b x.isLt := rfl
@[simp] theorem setReg_i (s : State) (x : Nibble) (b : Byte) : (setReg s x b).i = s.i := rfl
@[simp] theorem setReg_pc (s : State) (x : Nibble) (b : Byte) : (setReg s x b).pc = s.pc := rfl
@[simp] theorem setReg_stack (s : State) (x : Nibble) (b : Byte) : (setReg s x b).stack = s.stack := rfl
@[simp] theorem setReg_sp (s : State) (x : Nibble) (b : Byte) : (setReg s x b).sp = s.sp := rfl
@[simp] theorem setReg_dt (s : State) (x : Nibble) (b : Byte) : (setReg s x b).dt = s.dt := rfl
@[simp] theorem setReg_st (s : State) (x : Nibble) (b : Byte) : (setReg s x b).st = s.st := rfl
@[simp] theorem setReg_ir (s : State) (x : Nibble) (b : Byte) : (setReg s x b).ir = s.ir := rfl
@[simp] theorem setReg_run (s : State) (x : Nibble) (b : Byte) : (setReg s x b).run = s.run := rfl
@[simp] theorem setReg_fault (s : State) (x : Nibble) (b : Byte) : (setReg s x b).fault = s.fault := rfl
@[simp] theorem setReg_quitPending (s : State) (x : Nibble) (b : Byte) : (setReg s x b).quitPending = s.quitPending := rfl
@[simp] theorem setReg_keyCur (s : State) (x : Nibble) (b : Byte) : (setReg s x b).keyCur = s.keyCur := rfl
@[simp] theorem setReg_keyPrev (s : State) (x : Nibble) (b : Byte) : (setReg s x b).keyPrev = s.keyPrev := rfl
@[simp] theorem setReg_wait (s : State) (x : Nibble) (b : Byte) : (setReg s x b).wait = s.wait := rfl
@[simp] theorem setReg_waitReg (s : State) (x : Nibble) (b : Byte) : (setReg s x b).waitReg = s.waitReg := rfl
@[simp] theorem setReg_dirty (s : State) (x : Nibble) (b : Byte) : (setReg s x b).dirty = s.dirty := rfl
@[simp] theorem setReg_mem (s : State) (x : Nibble) (b : Byte) : (setReg s x b).mem = s.mem := rfl
@[simp] theorem setReg_fb (s : State) (x : Nibble) (b : Byte) : (setReg s x b).fb = s.fb := rfl
@[simp] theorem setReg_phase (s : State) (x : Nibble) (b : Byte) : (setReg s x b).phase = s.phase := rfl
@[simp] theorem setReg_frame (s : State) (x : Nibble) (b : Byte) : (setReg s x b).frame = s.frame := rfl
@[simp] theorem setReg_draws (s : State) (x : Nibble) (b : Byte) : (setReg s x b).draws = s.draws := rfl
@[simp] theorem setReg_cfg (s : State) (x : Nibble) (b : Byte) : (setReg s x b).cfg = s.cfg := rfl
@[simp] theorem setReg_events (s : State) (x : Nibble) (b : Byte) : (setReg s x b).events = s.events := rfl

/-! ## `setFlag` -/

@[simp] theorem setFlag_v (s : State) (b : Bool) : (setFlag s b).v = s.v.set 15 (flagByte b) := rfl
@[simp] theorem setFlag_i (s : State) (b : Bool) : (setFlag s b).i = s.i := rfl
@[simp] theorem setFlag_pc (s : State) (b : Bool) : (setFlag s b).pc = s.pc := rfl
@[simp] theorem setFlag_stack (s : State) (b : Bool) : (setFlag s b).stack = s.stack := rfl
@[simp] theorem setFlag_sp (s : State) (b : Bool) : (setFlag s b).sp = s.sp := rfl
@[simp] theorem setFlag_dt (s : State) (b : Bool) : (setFlag s b).dt = s.dt := rfl
@[simp] theorem setFlag_st (s : State) (b : Bool) : (setFlag s b).st = s.st := rfl
@[simp] theorem setFlag_ir (s : State) (b : Bool) : (setFlag s b).ir = s.ir := rfl
@[simp] theorem setFlag_run (s : State) (b : Bool) : (setFlag s b).run = s.run := rfl
@[simp] theorem setFlag_fault (s : State) (b : Bool) : (setFlag s b).fault = s.fault := rfl
@[simp] theorem setFlag_quitPending (s : State) (b : Bool) : (setFlag s b).quitPending = s.quitPending := rfl
@[simp] theorem setFlag_keyCur (s : State) (b : Bool) : (setFlag s b).keyCur = s.keyCur := rfl
@[simp] theorem setFlag_keyPrev (s : State) (b : Bool) : (setFlag s b).keyPrev = s.keyPrev := rfl
@[simp] theorem setFlag_wait (s : State) (b : Bool) : (setFlag s b).wait = s.wait := rfl
@[simp] theorem setFlag_waitReg (s : State) (b : Bool) : (setFlag s b).waitReg = s.waitReg := rfl
@[simp] theorem setFlag_dirty (s : State) (b : Bool) : (setFlag s b).dirty = s.dirty := rfl
@[simp] theorem setFlag_mem (s : State) (b : Bool) : (setFlag s b).mem = s.mem := rfl
@[simp] theorem setFlag_fb (s : State) (b : Bool) : (setFlag s b).fb = s.fb := rfl
@[simp] theorem setFlag_phase (s : State) (b : Bool) : (setFlag s b).phase = s.phase := rfl
@[simp] theorem setFlag_frame (s : State) (b : Bool) : (setFlag s b).frame = s.frame := rfl
@[simp] theorem setFlag_draws (s : State) (b : Bool) : (setFlag s b).draws = s.draws := rfl
@[simp] theorem setFlag_cfg (s : State) (b : Bool) : (setFlag s b).cfg = s.cfg := rfl
@[simp] theorem setFlag_events (s : State) (b : Bool) : (setFlag s b).events = s.events := rfl

/-! ## `endNext` -/

@[simp] theorem endNext_v (s : State) : (endNext s).v = s.v := rfl
@[simp] theorem endNext_i (s : State) : (endNext s).i = s.i := rfl
@[simp] theorem endNext_pc (s : State) : (endNext s).pc = s.pc + 2 := rfl
@[simp] theorem endNext_stack (s : State) : (endNext s).stack = s.stack := rfl
@[simp] theorem endNext_sp (s : State) : (endNext s).sp = s.sp := rfl
@[simp] theorem endNext_dt (s : State) : (endNext s).dt = s.dt := rfl
@[simp] theorem endNext_st (s : State) : (endNext s).st = s.st := rfl
@[simp] theorem endNext_ir (s : State) : (endNext s).ir = s.ir := rfl
@[simp] theorem endNext_run (s : State) : (endNext s).run = s.run := rfl
@[simp] theorem endNext_fault (s : State) : (endNext s).fault = s.fault := rfl
@[simp] theorem endNext_quitPending (s : State) : (endNext s).quitPending = s.quitPending := rfl
@[simp] theorem endNext_keyCur (s : State) : (endNext s).keyCur = s.keyCur := rfl
@[simp] theorem endNext_keyPrev (s : State) : (endNext s).keyPrev = s.keyPrev := rfl
@[simp] theorem endNext_wait (s : State) : (endNext s).wait = s.wait := rfl
@[simp] theorem endNext_waitReg (s : State) : (endNext s).waitReg = s.waitReg := rfl
@[simp] theorem endNext_dirty (s : State) : (endNext s).dirty = s.dirty := rfl
@[simp] theorem endNext_mem (s : State) : (endNext s).mem = s.mem := rfl
@[simp] theorem endNext_fb (s : State) : (endNext s).fb = s.fb := rfl
@[simp] theorem endNext_phase (s : State) : (endNext s).phase = s.phase := rfl
@[simp] theorem endNext_frame (s : State) : (endNext s).frame = s.frame := rfl
@[simp] theorem endNext_draws (s : State) : (endNext s).draws = s.draws := rfl
@[simp] theorem endNext_cfg (s : State) : (endNext s).cfg = s.cfg := rfl
@[simp] theorem endNext_events (s : State) : (endNext s).events = s.events := rfl

/-! ## `endJump` -/

@[simp] theorem endJump_v (s : State) (target : Word) : (endJump s target).v = s.v := rfl
@[simp] theorem endJump_i (s : State) (target : Word) : (endJump s target).i = s.i := rfl
@[simp] theorem endJump_pc (s : State) (target : Word) : (endJump s target).pc = target := rfl
@[simp] theorem endJump_stack (s : State) (target : Word) : (endJump s target).stack = s.stack := rfl
@[simp] theorem endJump_sp (s : State) (target : Word) : (endJump s target).sp = s.sp := rfl
@[simp] theorem endJump_dt (s : State) (target : Word) : (endJump s target).dt = s.dt := rfl
@[simp] theorem endJump_st (s : State) (target : Word) : (endJump s target).st = s.st := rfl
@[simp] theorem endJump_ir (s : State) (target : Word) : (endJump s target).ir = s.ir := rfl
@[simp] theorem endJump_run (s : State) (target : Word) : (endJump s target).run = s.run := rfl
@[simp] theorem endJump_fault (s : State) (target : Word) : (endJump s target).fault = s.fault := rfl
@[simp] theorem endJump_quitPending (s : State) (target : Word) : (endJump s target).quitPending = s.quitPending := rfl
@[simp] theorem endJump_keyCur (s : State) (target : Word) : (endJump s target).keyCur = s.keyCur := rfl
@[simp] theorem endJump_keyPrev (s : State) (target : Word) : (endJump s target).keyPrev = s.keyPrev := rfl
@[simp] theorem endJump_wait (s : State) (target : Word) : (endJump s target).wait = s.wait := rfl
@[simp] theorem endJump_waitReg (s : State) (target : Word) : (endJump s target).waitReg = s.waitReg := rfl
@[simp] theorem endJump_dirty (s : State) (target : Word) : (endJump s target).dirty = s.dirty := rfl
@[simp] theorem endJump_mem (s : State) (target : Word) : (endJump s target).mem = s.mem := rfl
@[simp] theorem endJump_fb (s : State) (target : Word) : (endJump s target).fb = s.fb := rfl
@[simp] theorem endJump_phase (s : State) (target : Word) : (endJump s target).phase = s.phase := rfl
@[simp] theorem endJump_frame (s : State) (target : Word) : (endJump s target).frame = s.frame := rfl
@[simp] theorem endJump_draws (s : State) (target : Word) : (endJump s target).draws = s.draws := rfl
@[simp] theorem endJump_cfg (s : State) (target : Word) : (endJump s target).cfg = s.cfg := rfl
@[simp] theorem endJump_events (s : State) (target : Word) : (endJump s target).events = s.events := rfl

/-! ## `raiseFault` -/

@[simp] theorem raiseFault_v (s : State) (k : FaultKind) : (raiseFault s k).v = s.v := rfl
@[simp] theorem raiseFault_i (s : State) (k : FaultKind) : (raiseFault s k).i = s.i := rfl
@[simp] theorem raiseFault_pc (s : State) (k : FaultKind) : (raiseFault s k).pc = s.pc := rfl
@[simp] theorem raiseFault_stack (s : State) (k : FaultKind) : (raiseFault s k).stack = s.stack := rfl
@[simp] theorem raiseFault_sp (s : State) (k : FaultKind) : (raiseFault s k).sp = s.sp := rfl
@[simp] theorem raiseFault_dt (s : State) (k : FaultKind) : (raiseFault s k).dt = s.dt := rfl
@[simp] theorem raiseFault_st (s : State) (k : FaultKind) : (raiseFault s k).st = s.st := rfl
@[simp] theorem raiseFault_ir (s : State) (k : FaultKind) : (raiseFault s k).ir = s.ir := rfl
@[simp] theorem raiseFault_run (s : State) (k : FaultKind) : (raiseFault s k).run = .halted := rfl
@[simp] theorem raiseFault_fault (s : State) (k : FaultKind) : (raiseFault s k).fault = { valid := true, kind := k, pc := s.pc, ir := s.ir, irValid := true } := rfl
@[simp] theorem raiseFault_quitPending (s : State) (k : FaultKind) : (raiseFault s k).quitPending = s.quitPending := rfl
@[simp] theorem raiseFault_keyCur (s : State) (k : FaultKind) : (raiseFault s k).keyCur = s.keyCur := rfl
@[simp] theorem raiseFault_keyPrev (s : State) (k : FaultKind) : (raiseFault s k).keyPrev = s.keyPrev := rfl
@[simp] theorem raiseFault_wait (s : State) (k : FaultKind) : (raiseFault s k).wait = s.wait := rfl
@[simp] theorem raiseFault_waitReg (s : State) (k : FaultKind) : (raiseFault s k).waitReg = s.waitReg := rfl
@[simp] theorem raiseFault_dirty (s : State) (k : FaultKind) : (raiseFault s k).dirty = s.dirty := rfl
@[simp] theorem raiseFault_mem (s : State) (k : FaultKind) : (raiseFault s k).mem = s.mem := rfl
@[simp] theorem raiseFault_fb (s : State) (k : FaultKind) : (raiseFault s k).fb = s.fb := rfl
@[simp] theorem raiseFault_phase (s : State) (k : FaultKind) : (raiseFault s k).phase = s.phase := rfl
@[simp] theorem raiseFault_frame (s : State) (k : FaultKind) : (raiseFault s k).frame = s.frame := rfl
@[simp] theorem raiseFault_draws (s : State) (k : FaultKind) : (raiseFault s k).draws = s.draws := rfl
@[simp] theorem raiseFault_cfg (s : State) (k : FaultKind) : (raiseFault s k).cfg = s.cfg := rfl
@[simp] theorem raiseFault_events (s : State) (k : FaultKind) : (raiseFault s k).events = s.events := rfl

/-! ## `fetchFault` -/

@[simp] theorem fetchFault_v (s : State) : (fetchFault s).v = s.v := rfl
@[simp] theorem fetchFault_i (s : State) : (fetchFault s).i = s.i := rfl
@[simp] theorem fetchFault_pc (s : State) : (fetchFault s).pc = s.pc := rfl
@[simp] theorem fetchFault_stack (s : State) : (fetchFault s).stack = s.stack := rfl
@[simp] theorem fetchFault_sp (s : State) : (fetchFault s).sp = s.sp := rfl
@[simp] theorem fetchFault_dt (s : State) : (fetchFault s).dt = s.dt := rfl
@[simp] theorem fetchFault_st (s : State) : (fetchFault s).st = s.st := rfl
@[simp] theorem fetchFault_ir (s : State) : (fetchFault s).ir = s.ir := rfl
@[simp] theorem fetchFault_run (s : State) : (fetchFault s).run = .halted := rfl
@[simp] theorem fetchFault_fault (s : State) : (fetchFault s).fault = { valid := true, kind := .outOfBoundsFetch, pc := s.pc, ir := 0, irValid := false } := rfl
@[simp] theorem fetchFault_quitPending (s : State) : (fetchFault s).quitPending = s.quitPending := rfl
@[simp] theorem fetchFault_keyCur (s : State) : (fetchFault s).keyCur = s.keyCur := rfl
@[simp] theorem fetchFault_keyPrev (s : State) : (fetchFault s).keyPrev = s.keyPrev := rfl
@[simp] theorem fetchFault_wait (s : State) : (fetchFault s).wait = s.wait := rfl
@[simp] theorem fetchFault_waitReg (s : State) : (fetchFault s).waitReg = s.waitReg := rfl
@[simp] theorem fetchFault_dirty (s : State) : (fetchFault s).dirty = s.dirty := rfl
@[simp] theorem fetchFault_mem (s : State) : (fetchFault s).mem = s.mem := rfl
@[simp] theorem fetchFault_fb (s : State) : (fetchFault s).fb = s.fb := rfl
@[simp] theorem fetchFault_phase (s : State) : (fetchFault s).phase = s.phase := rfl
@[simp] theorem fetchFault_frame (s : State) : (fetchFault s).frame = s.frame := rfl
@[simp] theorem fetchFault_draws (s : State) : (fetchFault s).draws = s.draws := rfl
@[simp] theorem fetchFault_cfg (s : State) : (fetchFault s).cfg = s.cfg := rfl
@[simp] theorem fetchFault_events (s : State) : (fetchFault s).events = s.events := rfl

/-! ## `refreshLatch` -/

@[simp] theorem refreshLatch_v (s : State) (keys : BitVec 16) (quit : Bool) : (refreshLatch keys quit s).v = s.v := rfl
@[simp] theorem refreshLatch_i (s : State) (keys : BitVec 16) (quit : Bool) : (refreshLatch keys quit s).i = s.i := rfl
@[simp] theorem refreshLatch_pc (s : State) (keys : BitVec 16) (quit : Bool) : (refreshLatch keys quit s).pc = s.pc := rfl
@[simp] theorem refreshLatch_stack (s : State) (keys : BitVec 16) (quit : Bool) : (refreshLatch keys quit s).stack = s.stack := rfl
@[simp] theorem refreshLatch_sp (s : State) (keys : BitVec 16) (quit : Bool) : (refreshLatch keys quit s).sp = s.sp := rfl
@[simp] theorem refreshLatch_dt (s : State) (keys : BitVec 16) (quit : Bool) : (refreshLatch keys quit s).dt = s.dt := rfl
@[simp] theorem refreshLatch_st (s : State) (keys : BitVec 16) (quit : Bool) : (refreshLatch keys quit s).st = s.st := rfl
@[simp] theorem refreshLatch_ir (s : State) (keys : BitVec 16) (quit : Bool) : (refreshLatch keys quit s).ir = s.ir := rfl
@[simp] theorem refreshLatch_run (s : State) (keys : BitVec 16) (quit : Bool) : (refreshLatch keys quit s).run = s.run := rfl
@[simp] theorem refreshLatch_fault (s : State) (keys : BitVec 16) (quit : Bool) : (refreshLatch keys quit s).fault = s.fault := rfl
@[simp] theorem refreshLatch_quitPending (s : State) (keys : BitVec 16) (quit : Bool) : (refreshLatch keys quit s).quitPending = (s.quitPending || quit) := rfl
@[simp] theorem refreshLatch_keyCur (s : State) (keys : BitVec 16) (quit : Bool) : (refreshLatch keys quit s).keyCur = keys := rfl
@[simp] theorem refreshLatch_keyPrev (s : State) (keys : BitVec 16) (quit : Bool) : (refreshLatch keys quit s).keyPrev = s.keyCur := rfl
@[simp] theorem refreshLatch_wait (s : State) (keys : BitVec 16) (quit : Bool) : (refreshLatch keys quit s).wait = s.wait := rfl
@[simp] theorem refreshLatch_waitReg (s : State) (keys : BitVec 16) (quit : Bool) : (refreshLatch keys quit s).waitReg = s.waitReg := rfl
@[simp] theorem refreshLatch_dirty (s : State) (keys : BitVec 16) (quit : Bool) : (refreshLatch keys quit s).dirty = s.dirty := rfl
@[simp] theorem refreshLatch_mem (s : State) (keys : BitVec 16) (quit : Bool) : (refreshLatch keys quit s).mem = s.mem := rfl
@[simp] theorem refreshLatch_fb (s : State) (keys : BitVec 16) (quit : Bool) : (refreshLatch keys quit s).fb = s.fb := rfl
@[simp] theorem refreshLatch_phase (s : State) (keys : BitVec 16) (quit : Bool) : (refreshLatch keys quit s).phase = s.phase := rfl
@[simp] theorem refreshLatch_frame (s : State) (keys : BitVec 16) (quit : Bool) : (refreshLatch keys quit s).frame = s.frame := rfl
@[simp] theorem refreshLatch_draws (s : State) (keys : BitVec 16) (quit : Bool) : (refreshLatch keys quit s).draws = s.draws := rfl
@[simp] theorem refreshLatch_cfg (s : State) (keys : BitVec 16) (quit : Bool) : (refreshLatch keys quit s).cfg = s.cfg := rfl
@[simp] theorem refreshLatch_events (s : State) (keys : BitVec 16) (quit : Bool) : (refreshLatch keys quit s).events = s.events := rfl

/-! ## `enterCycle` -/

@[simp] theorem enterCycle_v (s : State) (w : Word) (left : Nat) : (enterCycle s w left).v = s.v := rfl
@[simp] theorem enterCycle_i (s : State) (w : Word) (left : Nat) : (enterCycle s w left).i = s.i := rfl
@[simp] theorem enterCycle_pc (s : State) (w : Word) (left : Nat) : (enterCycle s w left).pc = s.pc := rfl
@[simp] theorem enterCycle_stack (s : State) (w : Word) (left : Nat) : (enterCycle s w left).stack = s.stack := rfl
@[simp] theorem enterCycle_sp (s : State) (w : Word) (left : Nat) : (enterCycle s w left).sp = s.sp := rfl
@[simp] theorem enterCycle_dt (s : State) (w : Word) (left : Nat) : (enterCycle s w left).dt = s.dt := rfl
@[simp] theorem enterCycle_st (s : State) (w : Word) (left : Nat) : (enterCycle s w left).st = s.st := rfl
@[simp] theorem enterCycle_ir (s : State) (w : Word) (left : Nat) : (enterCycle s w left).ir = w := rfl
@[simp] theorem enterCycle_run (s : State) (w : Word) (left : Nat) : (enterCycle s w left).run = s.run := rfl
@[simp] theorem enterCycle_fault (s : State) (w : Word) (left : Nat) : (enterCycle s w left).fault = s.fault := rfl
@[simp] theorem enterCycle_quitPending (s : State) (w : Word) (left : Nat) : (enterCycle s w left).quitPending = s.quitPending := rfl
@[simp] theorem enterCycle_keyCur (s : State) (w : Word) (left : Nat) : (enterCycle s w left).keyCur = s.keyCur := rfl
@[simp] theorem enterCycle_keyPrev (s : State) (w : Word) (left : Nat) : (enterCycle s w left).keyPrev = s.keyPrev := rfl
@[simp] theorem enterCycle_wait (s : State) (w : Word) (left : Nat) : (enterCycle s w left).wait = s.wait := rfl
@[simp] theorem enterCycle_waitReg (s : State) (w : Word) (left : Nat) : (enterCycle s w left).waitReg = s.waitReg := rfl
@[simp] theorem enterCycle_dirty (s : State) (w : Word) (left : Nat) : (enterCycle s w left).dirty = s.dirty := rfl
@[simp] theorem enterCycle_mem (s : State) (w : Word) (left : Nat) : (enterCycle s w left).mem = s.mem := rfl
@[simp] theorem enterCycle_fb (s : State) (w : Word) (left : Nat) : (enterCycle s w left).fb = s.fb := rfl
@[simp] theorem enterCycle_phase (s : State) (w : Word) (left : Nat) : (enterCycle s w left).phase = .batch left := rfl
@[simp] theorem enterCycle_frame (s : State) (w : Word) (left : Nat) : (enterCycle s w left).frame = s.frame := rfl
@[simp] theorem enterCycle_draws (s : State) (w : Word) (left : Nat) : (enterCycle s w left).draws = s.draws := rfl
@[simp] theorem enterCycle_cfg (s : State) (w : Word) (left : Nat) : (enterCycle s w left).cfg = s.cfg := rfl
@[simp] theorem enterCycle_events (s : State) (w : Word) (left : Nat) : (enterCycle s w left).events = s.events := rfl

/-! ## `endSkip` -/

@[simp] theorem endSkip_v (s : State) (b : Bool) : (endSkip s b).v = s.v := by unfold endSkip; split <;> rfl
@[simp] theorem endSkip_i (s : State) (b : Bool) : (endSkip s b).i = s.i := by unfold endSkip; split <;> rfl
@[simp] theorem endSkip_stack (s : State) (b : Bool) : (endSkip s b).stack = s.stack := by unfold endSkip; split <;> rfl
@[simp] theorem endSkip_sp (s : State) (b : Bool) : (endSkip s b).sp = s.sp := by unfold endSkip; split <;> rfl
@[simp] theorem endSkip_dt (s : State) (b : Bool) : (endSkip s b).dt = s.dt := by unfold endSkip; split <;> rfl
@[simp] theorem endSkip_st (s : State) (b : Bool) : (endSkip s b).st = s.st := by unfold endSkip; split <;> rfl
@[simp] theorem endSkip_ir (s : State) (b : Bool) : (endSkip s b).ir = s.ir := by unfold endSkip; split <;> rfl
@[simp] theorem endSkip_run (s : State) (b : Bool) : (endSkip s b).run = s.run := by unfold endSkip; split <;> rfl
@[simp] theorem endSkip_fault (s : State) (b : Bool) : (endSkip s b).fault = s.fault := by unfold endSkip; split <;> rfl
@[simp] theorem endSkip_quitPending (s : State) (b : Bool) : (endSkip s b).quitPending = s.quitPending := by unfold endSkip; split <;> rfl
@[simp] theorem endSkip_keyCur (s : State) (b : Bool) : (endSkip s b).keyCur = s.keyCur := by unfold endSkip; split <;> rfl
@[simp] theorem endSkip_keyPrev (s : State) (b : Bool) : (endSkip s b).keyPrev = s.keyPrev := by unfold endSkip; split <;> rfl
@[simp] theorem endSkip_wait (s : State) (b : Bool) : (endSkip s b).wait = s.wait := by unfold endSkip; split <;> rfl
@[simp] theorem endSkip_waitReg (s : State) (b : Bool) : (endSkip s b).waitReg = s.waitReg := by unfold endSkip; split <;> rfl
@[simp] theorem endSkip_dirty (s : State) (b : Bool) : (endSkip s b).dirty = s.dirty := by unfold endSkip; split <;> rfl
@[simp] theorem endSkip_mem (s : State) (b : Bool) : (endSkip s b).mem = s.mem := by unfold endSkip; split <;> rfl
@[simp] theorem endSkip_fb (s : State) (b : Bool) : (endSkip s b).fb = s.fb := by unfold endSkip; split <;> rfl
@[simp] theorem endSkip_phase (s : State) (b : Bool) : (endSkip s b).phase = s.phase := by unfold endSkip; split <;> rfl
@[simp] theorem endSkip_frame (s : State) (b : Bool) : (endSkip s b).frame = s.frame := by unfold endSkip; split <;> rfl
@[simp] theorem endSkip_draws (s : State) (b : Bool) : (endSkip s b).draws = s.draws := by unfold endSkip; split <;> rfl
@[simp] theorem endSkip_cfg (s : State) (b : Bool) : (endSkip s b).cfg = s.cfg := by unfold endSkip; split <;> rfl
@[simp] theorem endSkip_events (s : State) (b : Bool) : (endSkip s b).events = s.events := by unfold endSkip; split <;> rfl

/-! ## `advanceI` -/

@[simp] theorem advanceI_v (s : State) (n : Nat) : (advanceI s n).v = s.v := by unfold advanceI; split <;> rfl
@[simp] theorem advanceI_pc (s : State) (n : Nat) : (advanceI s n).pc = s.pc := by unfold advanceI; split <;> rfl
@[simp] theorem advanceI_stack (s : State) (n : Nat) : (advanceI s n).stack = s.stack := by unfold advanceI; split <;> rfl
@[simp] theorem advanceI_sp (s : State) (n : Nat) : (advanceI s n).sp = s.sp := by unfold advanceI; split <;> rfl
@[simp] theorem advanceI_dt (s : State) (n : Nat) : (advanceI s n).dt = s.dt := by unfold advanceI; split <;> rfl
@[simp] theorem advanceI_st (s : State) (n : Nat) : (advanceI s n).st = s.st := by unfold advanceI; split <;> rfl
@[simp] theorem advanceI_ir (s : State) (n : Nat) : (advanceI s n).ir = s.ir := by unfold advanceI; split <;> rfl
@[simp] theorem advanceI_run (s : State) (n : Nat) : (advanceI s n).run = s.run := by unfold advanceI; split <;> rfl
@[simp] theorem advanceI_fault (s : State) (n : Nat) : (advanceI s n).fault = s.fault := by unfold advanceI; split <;> rfl
@[simp] theorem advanceI_quitPending (s : State) (n : Nat) : (advanceI s n).quitPending = s.quitPending := by unfold advanceI; split <;> rfl
@[simp] theorem advanceI_keyCur (s : State) (n : Nat) : (advanceI s n).keyCur = s.keyCur := by unfold advanceI; split <;> rfl
@[simp] theorem advanceI_keyPrev (s : State) (n : Nat) : (advanceI s n).keyPrev = s.keyPrev := by unfold advanceI; split <;> rfl
@[simp] theorem advanceI_wait (s : State) (n : Nat) : (advanceI s n).wait = s.wait := by unfold advanceI; split <;> rfl
@[simp] theorem advanceI_waitReg (s : State) (n : Nat) : (advanceI s n).waitReg = s.waitReg := by unfold advanceI; split <;> rfl
@[simp] theorem advanceI_dirty (s : State) (n : Nat) : (advanceI s n).dirty = s.dirty := by unfold advanceI; split <;> rfl
@[simp] theorem advanceI_mem (s : State) (n : Nat) : (advanceI s n).mem = s.mem := by unfold advanceI; split <;> rfl
@[simp] theorem advanceI_fb (s : State) (n : Nat) : (advanceI s n).fb = s.fb := by unfold advanceI; split <;> rfl
@[simp] theorem advanceI_phase (s : State) (n : Nat) : (advanceI s n).phase = s.phase := by unfold advanceI; split <;> rfl
@[simp] theorem advanceI_frame (s : State) (n : Nat) : (advanceI s n).frame = s.frame := by unfold advanceI; split <;> rfl
@[simp] theorem advanceI_draws (s : State) (n : Nat) : (advanceI s n).draws = s.draws := by unfold advanceI; split <;> rfl
@[simp] theorem advanceI_cfg (s : State) (n : Nat) : (advanceI s n).cfg = s.cfg := by unfold advanceI; split <;> rfl
@[simp] theorem advanceI_events (s : State) (n : Nat) : (advanceI s n).events = s.events := by unfold advanceI; split <;> rfl

@[simp] theorem endSkip_pc (s : State) (b : Bool) : (endSkip s b).pc = if b then s.pc + 4 else s.pc + 2 := by
  cases b <;> rfl

@[simp] theorem advanceI_i (s : State) (n : Nat) :
    (advanceI s n).i = if s.cfg.loadStoreAdvancesI then BitVec.ofNat 16 (s.i.toNat + n) else s.i := by
  unfold advanceI; split <;> rfl
/-! ## `present` -/

@[simp] theorem present_v (s : State) : (present s).v = s.v := by unfold present; split <;> rfl
@[simp] theorem present_i (s : State) : (present s).i = s.i := by unfold present; split <;> rfl
@[simp] theorem present_pc (s : State) : (present s).pc = s.pc := by unfold present; split <;> rfl
@[simp] theorem present_stack (s : State) : (present s).stack = s.stack := by unfold present; split <;> rfl
@[simp] theorem present_sp (s : State) : (present s).sp = s.sp := by unfold present; split <;> rfl
@[simp] theorem present_dt (s : State) : (present s).dt = s.dt := by unfold present; split <;> rfl
@[simp] theorem present_st (s : State) : (present s).st = s.st := by unfold present; split <;> rfl
@[simp] theorem present_ir (s : State) : (present s).ir = s.ir := by unfold present; split <;> rfl
@[simp] theorem present_run (s : State) : (present s).run = s.run := by unfold present; split <;> rfl
@[simp] theorem present_fault (s : State) : (present s).fault = s.fault := by unfold present; split <;> rfl
@[simp] theorem present_quitPending (s : State) : (present s).quitPending = s.quitPending := by unfold present; split <;> rfl
@[simp] theorem present_keyCur (s : State) : (present s).keyCur = s.keyCur := by unfold present; split <;> rfl
@[simp] theorem present_keyPrev (s : State) : (present s).keyPrev = s.keyPrev := by unfold present; split <;> rfl
@[simp] theorem present_wait (s : State) : (present s).wait = s.wait := by unfold present; split <;> rfl
@[simp] theorem present_waitReg (s : State) : (present s).waitReg = s.waitReg := by unfold present; split <;> rfl
@[simp] theorem present_mem (s : State) : (present s).mem = s.mem := by unfold present; split <;> rfl
@[simp] theorem present_fb (s : State) : (present s).fb = s.fb := by unfold present; split <;> rfl
@[simp] theorem present_phase (s : State) : (present s).phase = s.phase := by unfold present; split <;> rfl
@[simp] theorem present_frame (s : State) : (present s).frame = s.frame := by unfold present; split <;> rfl
@[simp] theorem present_draws (s : State) : (present s).draws = s.draws := by unfold present; split <;> rfl
@[simp] theorem present_cfg (s : State) : (present s).cfg = s.cfg := by unfold present; split <;> rfl
@[simp] theorem present_dirty (s : State) : (present s).dirty = false := by
  unfold present; split <;> simp_all

@[simp] theorem present_events (s : State) :
    (present s).events = s.events ++ if s.dirty = true then [.present s.frame (packedView s.fb)] else [] := by
  unfold present; split <;> simp_all


end Sys2Proof.Machine
end

