-- ==== Sys2Proof/Laws/Ops.lean ====
section
/-! SUPPORT. For each shared operation, one lemma that says all it can do; proofs cite it and do not unfold the operation. -/

namespace Sys2Proof.Machine

/-- Reading a register after writing one: the value written where it is the same register, the old value elsewhere. -/
theorem reg_setReg (s : State) (x j : Nibble) (b : Byte) :
    reg (setReg s x b) j = if j = x then b else reg s j := by
  simp only [reg, setReg, Vector.getElem_set, BitVec.toNat_inj, eq_comm]

/-- A register depends on the register file only. -/
theorem reg_congr {s t : State} (h : t.v = s.v) (j : Nibble) : reg t j = reg s j := by
  simp only [reg, h]

/-- Two register files that read alike are equal. -/
theorem v_ext {s t : State} (h : ∀ j, reg s j = reg t j) : s.v = t.v := by
  refine Vector.ext fun k hk => ?_
  have := h (BitVec.ofNat 4 k)
  simpa [reg, Nat.mod_eq_of_lt (show k < 16 from hk)] using this

@[simp] theorem reg_setFlag (s : State) (b : Bool) (j : Nibble) :
    reg (setFlag s b) j = if j = 0xF then flagByte b else reg s j := reg_setReg ..

@[simp] theorem reg_endNext (s : State) (j : Nibble) : reg (endNext s) j = reg s j := rfl

@[simp] theorem reg_endJump (s : State) (w : Word) (j : Nibble) : reg (endJump s w) j = reg s j := rfl

@[simp] theorem reg_endSkip (s : State) (b : Bool) (j : Nibble) : reg (endSkip s b) j = reg s j :=
  reg_congr (by simp) j

@[simp] theorem reg_advanceI (s : State) (n : Nat) (j : Nibble) : reg (advanceI s n) j = reg s j :=
  reg_congr (by simp) j

@[simp] theorem reg_raiseFault (s : State) (k : FaultKind) (j : Nibble) : reg (raiseFault s k) j = reg s j := rfl

theorem inRange_iff (a n : Nat) : inRange a n = true ↔ n = 0 ∨ a + n ≤ 4096 := by
  exact decide_eq_true_iff

/-- What a guarded data access answers: its effect if the block is inside memory, else the fault with nothing written. -/
theorem guardBlock_cases (s e : State) (n : Nat) :
    (n = 0 ∨ s.i.toNat + n ≤ 4096) ∧ guardBlock s n e = e ∨
    (n ≠ 0 ∧ 4096 < s.i.toNat + n) ∧ guardBlock s n e = raiseFault s .outOfBoundsFetch := by
  unfold guardBlock
  by_cases h : inRange s.i.toNat n = true
  · exact .inl ⟨(inRange_iff ..).mp h, by simp [h]⟩
  · refine .inr ⟨?_, by simp [h]⟩
    rw [inRange_iff] at h; omega

theorem guardBlock_inside {s e : State} {n : Nat} (h : n = 0 ∨ s.i.toNat + n ≤ 4096) : guardBlock s n e = e := by
  rcases guardBlock_cases s e n with g | g
  · exact g.2
  · omega

theorem guardBlock_outside {s e : State} {n : Nat} (h : n ≠ 0 ∧ 4096 < s.i.toNat + n) :
    guardBlock s n e = raiseFault s .outOfBoundsFetch := by
  rcases guardBlock_cases s e n with g | g
  · omega
  · exact g.2

/-- The end of a skip writes `PC` only. -/
theorem endSkip_onlyPc (s : State) (b : Bool) : endSkip s b = { s with pc := if b then s.pc + 4 else s.pc + 2 } := by
  cases b <;> rfl

/-- Advancing `I` writes `I` only. -/
theorem advanceI_onlyI (s : State) (n : Nat) : advanceI s n = { s with i := (advanceI s n).i } := by
  unfold advanceI; split <;> rfl

/-- The fetch delivers the two bytes at `PC`, high byte first, exactly if both are inside memory. -/
theorem fetchWord_eq (s : State) :
    fetchWord s = if s.pc.toNat + 2 ≤ 4096
      then some (Memory.read s.mem s.pc.toNat ++ Memory.read s.mem (s.pc.toNat + 1)) else none := by
  simp [fetchWord, inRange, Config.memSize, wordOfBytes]

/-- The fetch depends on `PC` and memory only. -/
theorem fetchWord_congr {s t : State} (hp : t.pc = s.pc) (hm : t.mem = s.mem) : fetchWord t = fetchWord s := by
  simp only [fetchWord, hp, hm]

/-- Loading a block writes registers only. -/
theorem loadBlock_onlyRegs (s : State) (a n : Nat) : loadBlock s a n = { s with v := (loadBlock s a n).v } := by
  induction n with
  | zero => rfl
  | succ n ih => simp only [loadBlock]; rw [ih]; rfl

/-- Loading a block: register `k` of the block takes the byte at `a + k`, every other register stays. -/
theorem reg_loadBlock (s : State) (a n : Nat) (h : n ≤ 16) (j : Nibble) :
    reg (loadBlock s a n) j = if j.toNat < n then Memory.read s.mem (a + j.toNat) else reg s j := by
  induction n with
  | zero => simp [loadBlock]
  | succ n ih =>
    have ih := ih (by omega)
    have hm : (loadBlock s a n).mem = s.mem := by rw [loadBlock_onlyRegs]
    simp only [loadBlock, reg_setReg, hm, ih]
    have hj : (j = BitVec.ofNat 4 n) ↔ j.toNat = n := by
      rw [← BitVec.toNat_inj, BitVec.toNat_ofNat, Nat.mod_eq_of_lt (show n < 2 ^ 4 by omega)]
    by_cases h1 : j.toNat = n
    · rw [if_pos (hj.mpr h1), if_pos (by omega), h1]
    · rw [if_neg (mt hj.mp h1)]
      by_cases h2 : j.toNat < n
      · rw [if_pos h2, if_pos (by omega)]
      · rw [if_neg h2, if_neg (by omega)]

theorem regBlock_length (s : State) (n : Nat) (h : n ≤ 16) : (regBlock s n).length = n := by
  simp [regBlock]; omega

/-- The register block lists the registers in order. -/
theorem regBlock_getD (s : State) (n : Nat) (j : Nibble) (h : j.toNat < n) :
    (regBlock s n).getD j.toNat 0 = reg s j := by
  have := j.isLt
  simp [regBlock, reg, List.getD_eq_getElem?_getD, h, Vector.getElem?_eq_getElem this]

/-- Pixels after a toggle: the one pixel is inverted, every other stays. -/
theorem pixel_togglePixel (fb : Framebuffer) (y py : Fin 32) (x px : Fin 64) :
    pixel (togglePixel fb y x) py px = (pixel fb py px ^^ decide (py = y ∧ px = x)) := by
  simp only [pixel, togglePixel, Fin.getElem_fin, Vector.getElem_set]
  by_cases h : py = y
  · subst h
    have h1 := px.isLt
    have h2 := x.isLt
    simp [Fin.ext_iff, eq_comm, h1]
  · rw [if_neg (by simpa [Fin.ext_iff, eq_comm] using h)]; simp [h]

end Sys2Proof.Machine
end

