-- ==== Sys2Proof/Laws/PerInstr.lean ====
section
/-! SUPPORT. A family of facts per instruction: the word the encoder writes selects the row of spec/opcode_table.json the instruction stands for (30_encoding.md R98). -/

namespace Sys2Proof.Laws.FixedBits

/-- The row of an instruction, by its mnemonic; `UNKNOWN` has none among the assigned rows. -/
def rowOf (i : Instr) : Option OpcodeRow := opcodeRows.find? fun r => r.mnemonic == i.mnemonic

/-- A well-formed instruction's encoding has the fixed bits of its row. -/
def Statement (i : Instr) : Prop := i.wf = true → ∀ r ∈ rowOf i, r.selects (encode i) = true

theorem cases_rowOf {i : Instr} {r : OpcodeRow} (h : rowOf i = some r) (hs : r.selects (encode i) = true) : Statement i := by
  rintro - r' hr
  obtain rfl := Option.some.inj (h.symm.trans hr)
  exact hs

theorem packNibbles_selects (op x y n : Nibble) (m : String) :
    OpcodeRow.selects ⟨m, packNibbles op 0 0 n, 0xF00F⟩ (packNibbles op x y n) = true := by
  simp only [OpcodeRow.selects, packNibbles, beq_iff_eq]
  refine BitVec.eq_of_getLsbD_eq fun i hi => ?_
  interval_cases i <;> simp

theorem packSprite_selects (op x y n : Nibble) (m : String) :
    OpcodeRow.selects ⟨m, packNibbles op 0 0 0, 0xF000⟩ (packNibbles op x y n) = true := by
  simp only [OpcodeRow.selects, packNibbles, beq_iff_eq]
  refine BitVec.eq_of_getLsbD_eq fun i hi => ?_
  interval_cases i <;> simp

theorem packImm_selects (op x : Nibble) (nn : Byte) (m : String) :
    OpcodeRow.selects ⟨m, packImm op 0 0, 0xF000⟩ (packImm op x nn) = true := by
  simp only [OpcodeRow.selects, packImm, beq_iff_eq]
  refine BitVec.eq_of_getLsbD_eq fun i hi => ?_
  interval_cases i <;> simp

theorem packFunction_selects (op x : Nibble) (nn : Byte) (m : String) :
    OpcodeRow.selects ⟨m, packImm op 0 nn, 0xF0FF⟩ (packImm op x nn) = true := by
  simp only [OpcodeRow.selects, packImm, beq_iff_eq]
  refine BitVec.eq_of_getLsbD_eq fun i hi => ?_
  interval_cases i <;> simp

theorem packAddr_selects (op : Nibble) (nnn : Imm12) (m : String) :
    OpcodeRow.selects ⟨m, packAddr op 0, 0xF000⟩ (packAddr op nnn) = true := by
  simp only [OpcodeRow.selects, packAddr, beq_iff_eq]
  refine BitVec.eq_of_getLsbD_eq fun i hi => ?_
  interval_cases i <;> simp

theorem cls : Statement (.cls) :=
  cases_rowOf rfl (by decide)

theorem ret : Statement (.ret) :=
  cases_rowOf rfl (by decide)

theorem jp (nnn : Imm12) : Statement (.jp nnn) :=
  cases_rowOf rfl (packAddr_selects 0x1 nnn _)

theorem call (nnn : Imm12) : Statement (.call nnn) :=
  cases_rowOf rfl (packAddr_selects 0x2 nnn _)

theorem skipEqImm (x : Nibble) (nn : Byte) : Statement (.skipEqImm x nn) :=
  cases_rowOf rfl (packImm_selects 0x3 x nn _)

theorem skipNeImm (x : Nibble) (nn : Byte) : Statement (.skipNeImm x nn) :=
  cases_rowOf rfl (packImm_selects 0x4 x nn _)

theorem skipEqReg (x y : Nibble) : Statement (.skipEqReg x y) :=
  cases_rowOf rfl (packNibbles_selects 0x5 x y 0x0 _)

theorem ldImm (x : Nibble) (nn : Byte) : Statement (.ldImm x nn) :=
  cases_rowOf rfl (packImm_selects 0x6 x nn _)

theorem addImm (x : Nibble) (nn : Byte) : Statement (.addImm x nn) :=
  cases_rowOf rfl (packImm_selects 0x7 x nn _)

theorem ldReg (x y : Nibble) : Statement (.ldReg x y) :=
  cases_rowOf rfl (packNibbles_selects 0x8 x y 0x0 _)

theorem orReg (x y : Nibble) : Statement (.orReg x y) :=
  cases_rowOf rfl (packNibbles_selects 0x8 x y 0x1 _)

theorem andReg (x y : Nibble) : Statement (.andReg x y) :=
  cases_rowOf rfl (packNibbles_selects 0x8 x y 0x2 _)

theorem xorReg (x y : Nibble) : Statement (.xorReg x y) :=
  cases_rowOf rfl (packNibbles_selects 0x8 x y 0x3 _)

theorem addReg (x y : Nibble) : Statement (.addReg x y) :=
  cases_rowOf rfl (packNibbles_selects 0x8 x y 0x4 _)

theorem subReg (x y : Nibble) : Statement (.subReg x y) :=
  cases_rowOf rfl (packNibbles_selects 0x8 x y 0x5 _)

theorem shr (x y : Nibble) : Statement (.shr x y) :=
  cases_rowOf rfl (packNibbles_selects 0x8 x y 0x6 _)

theorem subnReg (x y : Nibble) : Statement (.subnReg x y) :=
  cases_rowOf rfl (packNibbles_selects 0x8 x y 0x7 _)

theorem shl (x y : Nibble) : Statement (.shl x y) :=
  cases_rowOf rfl (packNibbles_selects 0x8 x y 0xE _)

theorem skipNeReg (x y : Nibble) : Statement (.skipNeReg x y) :=
  cases_rowOf rfl (packNibbles_selects 0x9 x y 0x0 _)

theorem ldI (nnn : Imm12) : Statement (.ldI nnn) :=
  cases_rowOf rfl (packAddr_selects 0xA nnn _)

theorem jpV0 (nnn : Imm12) : Statement (.jpV0 nnn) :=
  cases_rowOf rfl (packAddr_selects 0xB nnn _)

theorem rnd (x : Nibble) (nn : Byte) : Statement (.rnd x nn) :=
  cases_rowOf rfl (packImm_selects 0xC x nn _)

theorem drw (x y n : Nibble) : Statement (.drw x y n) :=
  cases_rowOf rfl (packSprite_selects 0xD x y n _)

theorem skipKey (x : Nibble) : Statement (.skipKey x) :=
  cases_rowOf rfl (packFunction_selects 0xE x 0x9E _)

theorem skipNotKey (x : Nibble) : Statement (.skipNotKey x) :=
  cases_rowOf rfl (packFunction_selects 0xE x 0xA1 _)

theorem readDelay (x : Nibble) : Statement (.readDelay x) :=
  cases_rowOf rfl (packFunction_selects 0xF x 0x07 _)

theorem waitKey (x : Nibble) : Statement (.waitKey x) :=
  cases_rowOf rfl (packFunction_selects 0xF x 0x0A _)

theorem writeDelay (x : Nibble) : Statement (.writeDelay x) :=
  cases_rowOf rfl (packFunction_selects 0xF x 0x15 _)

theorem writeSound (x : Nibble) : Statement (.writeSound x) :=
  cases_rowOf rfl (packFunction_selects 0xF x 0x18 _)

theorem addI (x : Nibble) : Statement (.addI x) :=
  cases_rowOf rfl (packFunction_selects 0xF x 0x1E _)

theorem ldGlyph (x : Nibble) : Statement (.ldGlyph x) :=
  cases_rowOf rfl (packFunction_selects 0xF x 0x29 _)

theorem storeBcd (x : Nibble) : Statement (.storeBcd x) :=
  cases_rowOf rfl (packFunction_selects 0xF x 0x33 _)

theorem storeRegs (x : Nibble) : Statement (.storeRegs x) :=
  cases_rowOf rfl (packFunction_selects 0xF x 0x55 _)

theorem loadRegs (x : Nibble) : Statement (.loadRegs x) :=
  cases_rowOf rfl (packFunction_selects 0xF x 0x65 _)

theorem unknown (w : Word) : Statement (.unknown w) :=
  fun _ _ h => nomatch (h : none = some _)

end Sys2Proof.Laws.FixedBits
end

