-- ==== Sys2Proof/Laws/Step.lean ====
section
/-! SUPPORT. What a step can do, said once: its four shapes, and the inversion lemma from which invariants follow. -/

namespace Sys2Proof.Machine

theorem step_frameStart {s : State} (hr : s.run = .running) (hp : s.phase = .frameStart) :
    step s = .next (beginFrame s) := by simp [step, hr, hp]

/-- The batch is over, or abandoned because the machine waits (49_frame_scheduler.md R247). -/
abbrev batchOver (s : State) : Prop := s.phase = .batch 0 ∨ ∃ left, s.phase = .batch (left + 1) ∧ s.wait = true

theorem step_batchOver {s : State} (hr : s.run = .running) (h : batchOver s) : step s = .next (endFrame s) := by
  rcases h with h | ⟨n, h, hw⟩
  · simp [step, hr, h]
  · simp [step, hr, h, hw]

theorem step_noFetch {s : State} {left : Nat} (hr : s.run = .running) (hp : s.phase = .batch (left + 1))
    (hw : s.wait = false) (hf : fetchWord s = none) : step s = .next (fetchFault s) := by
  simp [step, hr, hp, hw, hf]

theorem step_cycle {s : State} {left : Nat} {w : Word} (hr : s.run = .running) (hp : s.phase = .batch (left + 1))
    (hw : s.wait = false) (hf : fetchWord s = some w) :
    step s = exec (decodeWord w) (enterCycle s w left) := by
  simp [step, hr, hp, hw, hf]

/-- If a step answers `t`, the machine was running and `t` comes from one of the four shapes. -/
theorem step_cases {s t : State} (h : step s = .next t) :
    s.run = .running ∧
    ((s.phase = .frameStart ∧ t = beginFrame s) ∨
     (batchOver s ∧ t = endFrame s) ∨
     (∃ left, s.phase = .batch (left + 1) ∧ s.wait = false ∧ fetchWord s = none ∧ t = fetchFault s) ∨
     (∃ left w, s.phase = .batch (left + 1) ∧ s.wait = false ∧ fetchWord s = some w ∧
       exec (decodeWord w) (enterCycle s w left) = .next t)) := by
  cases hr : s.run with
  | halted => simp [step, hr] at h
  | stopped => simp [step, hr] at h
  | running =>
    refine ⟨rfl, ?_⟩
    cases hp : s.phase with
    | frameStart => exact .inl ⟨rfl, by simpa [step_frameStart hr hp] using h.symm⟩
    | batch n =>
      right
      cases n with
      | zero => exact .inl ⟨.inl hp, by simpa [step_batchOver hr (.inl hp)] using h.symm⟩
      | succ n =>
        cases hw : s.wait with
        | true => exact .inl ⟨.inr ⟨n, hp, hw⟩, by simpa [step_batchOver hr (.inr ⟨n, hp, hw⟩)] using h.symm⟩
        | false =>
          right
          cases hf : fetchWord s with
          | none => exact .inl ⟨n, rfl, rfl, rfl, by simpa [step_noFetch hr hp hw hf] using h.symm⟩
          | some w => exact .inr ⟨n, w, rfl, rfl, rfl, by simpa [step_cycle hr hp hw hf] using h⟩

end Sys2Proof.Machine
end

