-- ==== Sys2Proof/Tests/Slice0.lean ====
section
/-! SUPPORT. Tests and witnesses. The expected values are those of 95_test_vectors.md (the vector is named before each test) or are worked out by hand from the rule named; a `witness_` theorem shows states and operands that meet the hypotheses of the obligation of that name. -/

namespace Sys2Proof.Tests

open Sys2Proof Sys2Proof.Machine Sys2Proof.Safety

/-- The next state, if there is one. -/
def outState : Host.Outcome State Fault Refusal → Option State
  | .next t => some t
  | _ => none

/-- A state like reset with the open parameters fixed, so that it can be evaluated. -/
def s0 : State :=
  { State.reset with cfg := { ipf := 4, shiftSource := .vx, loadStoreAdvancesI := true, beepThreshold := 2 } }

/-- `s0` with the other choice of both toggles. -/
def s1 : State :=
  { State.reset with cfg := { ipf := 1, shiftSource := .vy, loadStoreAdvancesI := false, beepThreshold := 2 } }

/-- One step on `s` with the word `w` at `PC`. -/
def ran (w : Nat) (s : State) : Option State := outState (step (s.withFetchWord 16 w))

/-- `V1`, `V2`, `VF` and `PC`. -/
def view (t : State) : Byte × Byte × Byte × Word := (reg t 1, reg t 2, reg t 0xF, t.pc)

/-- `s0` with `V1`, `V2` and `VF` set. -/
def withV (s : State) (a b f : Byte) : State := setReg (setReg (setReg s 1 a) 2 b) 0xF f

/-- `s0` in a batch, about to run its first cycle. -/
def inBatch : State := { s0 with phase := .batch 1 }

/-! ## Well-formedness -/

/-- 30_encoding.md R102: an assigned word is no `UNKNOWN` descriptor, an unassigned one is. -/
theorem test_wf_refuses_assigned_word :
    (Instr.unknown 0x00E0).wf = false ∧ (Instr.unknown 0x5120).wf = false ∧ (Instr.unknown 0x8ABE).wf = false ∧
    (Instr.unknown 0x9AB0).wf = false ∧ (Instr.unknown 0xE19E).wf = false ∧ (Instr.unknown 0xF155).wf = false ∧
    (Instr.unknown 0x1000).wf = false := by decide

theorem test_wf_accepts_unassigned_word :
    (Instr.unknown 0x0000).wf = true ∧ (Instr.unknown 0x512F).wf = true ∧ (Instr.unknown 0x8ABF).wf = true ∧
    (Instr.unknown 0x9AB1).wf = true ∧ (Instr.unknown 0xE1A2).wf = true ∧ (Instr.unknown 0xFFFF).wf = true := by decide

/-! ## Decoding: words written out digit by digit from the patterns of 30_encoding.md R98 -/

/-- Vectors T30.1, T30.2, T30.7, T30.36, T30.8, T30.15, T30.32; `3xnn` and `4xnn` from their patterns. -/
theorem test_decode_control_flow :
    decodeWord 0x00E0 = .cls ∧ decodeWord 0x00EE = .ret ∧ decodeWord 0x10E0 = .jp 0x0E0 ∧
    decodeWord 0x2000 = .call 0 ∧ decodeWord 0x3A42 = .skipEqImm 0xA 0x42 ∧ decodeWord 0x4B24 = .skipNeImm 0xB 0x24 ∧
    decodeWord 0x5120 = .skipEqReg 1 2 ∧ decodeWord 0x9AB0 = .skipNeReg 0xA 0xB ∧ decodeWord 0xBFFF = .jpV0 0xFFF := by
  decide

/-- Vectors T30.35, T30.11, T30.14, T30.33; the rest from their patterns. -/
theorem test_decode_alu :
    decodeWord 0x6F00 = .ldImm 0xF 0 ∧ decodeWord 0x7105 = .addImm 1 5 ∧ decodeWord 0x8120 = .ldReg 1 2 ∧
    decodeWord 0x8341 = .orReg 3 4 ∧ decodeWord 0x8562 = .andReg 5 6 ∧ decodeWord 0x8783 = .xorReg 7 8 ∧
    decodeWord 0x89A4 = .addReg 9 0xA ∧ decodeWord 0x8BC5 = .subReg 0xB 0xC ∧ decodeWord 0x8DE6 = .shr 0xD 0xE ∧
    decodeWord 0x8AB7 = .subnReg 0xA 0xB ∧ decodeWord 0x8ABE = .shl 0xA 0xB ∧ decodeWord 0xCFFF = .rnd 0xF 0xFF := by
  decide

/-- Vectors T30.34, T30.24, T30.27, T30.28, T30.30; the rest from their patterns. -/
theorem test_decode_memory_display :
    decodeWord 0xA123 = .ldI 0x123 ∧ decodeWord 0xD123 = .drw 1 2 3 ∧ decodeWord 0xD000 = .drw 0 0 0 ∧
    decodeWord 0xF01E = .addI 0 ∧ decodeWord 0xF429 = .ldGlyph 4 ∧ decodeWord 0xF533 = .storeBcd 5 ∧
    decodeWord 0xF155 = .storeRegs 1 ∧ decodeWord 0xFF65 = .loadRegs 0xF := by decide

/-- Vectors T30.17, T30.19, T30.21, T30.22; the rest from their patterns. -/
theorem test_decode_keys_timers :
    decodeWord 0xE19E = .skipKey 1 ∧ decodeWord 0xE0A1 = .skipNotKey 0 ∧ decodeWord 0xF007 = .readDelay 0 ∧
    decodeWord 0xF00A = .waitKey 0 ∧ decodeWord 0xF315 = .writeDelay 3 ∧ decodeWord 0xF318 = .writeSound 3 := by decide

/-- Vectors T30.3, T30.5, T30.9, T30.12, T30.18, T30.26, T30.31: near misses. -/
theorem test_decode_unknown :
    decodeWord 0x00E1 = .unknown 0x00E1 ∧ decodeWord 0x01E0 = .unknown 0x01E0 ∧ decodeWord 0x5121 = .unknown 0x5121 ∧
    decodeWord 0x8AB8 = .unknown 0x8AB8 ∧ decodeWord 0xE19F = .unknown 0xE19F ∧ decodeWord 0xF175 = .unknown 0xF175 ∧
    decodeWord 0xFFFF = .unknown 0xFFFF := by decide

/-- 20_memory.md R64 (and source example S7): the byte at the lower address is the high byte. -/
theorem test_decode_byte_order :
    (match decodeBytes [0x60, 0x05, 0x70, 0x03] with
      | .ok (i, rest) => decide (i = .ldImm 0 5 ∧ rest = [0x70, 0x03])
      | .error _ => false) = true ∧
    decodeTableWord 16 0x6005 = some (.ldImm 0 5) := by decide

/-- 30_encoding.md R90: one byte is no instruction. -/
theorem test_decode_too_short :
    (match decodeBytes [0x60] with | .ok _ => false | .error e => decide (e = .tooShort)) = true := by decide

/-! ## Control flow -/

/-- T40.1. -/
theorem test_jp : (ran 0x1ABC s0).map view = some (0, 0, 0, 0x0ABC) := by decide

/-- T40.6. -/
theorem test_call_last_slot :
    (ran 0x2300 { s0 with sp := 15 }).map (fun t => (t.pc, t.sp, t.stack[15])) = some (0x0300, 16, 0x0202) := by decide

/-- T40.7. -/
theorem test_call_overflows :
    (ran 0x2300 { s0 with sp := 16 }).map (fun t => (t.pc, t.sp, t.run, t.fault)) =
      some (0x0200, 16, .halted, ⟨true, .stackOverflow, 0x0200, 0x2300, true⟩) := by decide

/-- T40.9. -/
theorem test_ret_full_stack :
    (ran 0x00EE { s0 with sp := 16, stack := s0.stack.set 15 0x0203 }).map (fun t => (t.pc, t.sp)) =
      some (0x0203, 15) := by decide

/-- T40.10. -/
theorem test_ret_underflows :
    (ran 0x00EE s0).map (fun t => (t.pc, t.sp, t.run, t.fault)) =
      some (0x0200, 0, .halted, ⟨true, .stackUnderflow, 0x0200, 0x00EE, true⟩) := by decide

/-- T40.11 and T40.12, with register 1. -/
theorem test_skipEqImm :
    (ran 0x312A (withV s0 0x2A 0 0)).map (·.pc) = some 0x0204 ∧
    (ran 0x312A (withV s0 0x2B 0 0)).map (·.pc) = some 0x0202 := by decide

/-- T40.15 and T40.16. -/
theorem test_skipNeImm :
    (ran 0x4300 s0).map (·.pc) = some 0x0202 ∧ (ran 0x43FF s0).map (·.pc) = some 0x0204 := by decide

/-- T40.17 and T40.18. -/
theorem test_skipEqReg :
    (ran 0x5120 (withV s0 7 7 0)).map (·.pc) = some 0x0204 ∧
    (ran 0x5120 (withV s0 7 8 0)).map (·.pc) = some 0x0202 := by decide

/-- T40.20 and T40.21. -/
theorem test_skipNeReg :
    (ran 0x9120 (withV s0 7 8 0)).map (·.pc) = some 0x0204 ∧
    (ran 0x9120 (withV s0 7 7 0)).map (·.pc) = some 0x0202 := by decide

/-- T40.25, first cycle: the sum is not wrapped to 12 bits. -/
theorem test_jpV0_beyond_memory : (ran 0xBFFF (setReg s0 0 0xFF)).map (·.pc) = some 0x10FE := by decide

/-- T40.26: `V0` is added, not `Vx`. -/
theorem test_jpV0_uses_V0 : (ran 0xB234 (withV s0 0 0x55 0)).map (·.pc) = some 0x0234 := by decide

/-- T40.28. -/
theorem test_unknown_is_nop : (ran 0x5121 (withV s0 7 7 0)).map view = some (7, 7, 0, 0x0202) := by decide

/-! ## Arithmetic and logic -/

/-- T41.1. -/
theorem test_ldImm : (ran 0x6FAB s0).map view = some (0, 0, 0xAB, 0x0202) := by decide

/-- T41.2 and T41.3: wraps, no flag. -/
theorem test_addImm :
    (ran 0x7105 (withV s0 0xFE 0 0x55)).map view = some (3, 0, 0x55, 0x0202) ∧
    (ran 0x7F01 (withV s0 0 0 0xFF)).map view = some (0, 0, 0, 0x0202) := by decide

/-- T41.5. -/
theorem test_ldReg : (ran 0x8120 (withV s0 0 0x7C 0x55)).map view = some (0x7C, 0x7C, 0x55, 0x0202) := by decide

/-- T41.7. -/
theorem test_orReg : (ran 0x8121 (withV s0 0x0F 0xF0 0x55)).map view = some (0xFF, 0xF0, 0x55, 0x0202) := by decide

/-- T41.8. -/
theorem test_andReg : (ran 0x8122 (withV s0 0x3C 0x0F 0x55)).map view = some (0x0C, 0x0F, 0x55, 0x0202) := by decide

/-- T41.9. -/
theorem test_xorReg : (ran 0x8123 (withV s0 0xFF 0x0F 0x55)).map view = some (0xF0, 0x0F, 0x55, 0x0202) := by decide

/-- T41.13 and T41.14: sums 256 and 255. -/
theorem test_addReg_carry_boundary :
    (ran 0x8124 (withV s0 0xFF 1 0)).map view = some (0, 1, 1, 0x0202) ∧
    (ran 0x8124 (withV s0 0xFE 1 0)).map view = some (0xFF, 1, 0, 0x0202) := by decide

/-- T41.15 and T41.17: `VF` as destination loses the sum, as source gives its old value. -/
theorem test_addReg_with_VF :
    (ran 0x8F14 (withV s0 0x20 0 0xF0)).map view = some (0x20, 0, 1, 0x0202) ∧
    (ran 0x81F4 (withV s0 0x10 0 1)).map view = some (0x11, 0, 0, 0x0202) := by decide

/-- T41.20 and T41.22. -/
theorem test_subReg :
    (ran 0x8125 (withV s0 5 7 1)).map view = some (0xFE, 7, 0, 0x0202) ∧
    (ran 0x8125 (withV s0 7 7 0)).map view = some (0, 7, 1, 0x0202) := by decide

/-- T41.31 and T41.34. -/
theorem test_subnReg :
    (ran 0x8127 (withV s0 5 7 0)).map view = some (2, 7, 1, 0x0202) ∧
    (ran 0x8F17 (withV s0 7 0 5)).map view = some (7, 0, 1, 0x0202) := by decide

/-- T41.27x and T41.27y. -/
theorem test_shr_source :
    (ran 0x8126 (withV s0 0x05 0x82 0)).map view = some (0x02, 0x82, 1, 0x0202) ∧
    (ran 0x8126 (withV s1 0x05 0x82 0)).map view = some (0x41, 0x82, 0, 0x0202) := by decide

/-- T41.30x and T41.30y: the old `VF` is the source. -/
theorem test_shr_with_VF :
    (ran 0x81F6 (withV s0 0x08 0 0x03)).map view = some (0x04, 0, 0, 0x0202) ∧
    (ran 0x81F6 (withV s1 0x08 0 0x03)).map view = some (0x01, 0, 1, 0x0202) := by decide

/-- T41.35x and T41.35y. -/
theorem test_shl_source :
    (ran 0x812E (withV s0 0x81 0x21 0)).map view = some (0x02, 0x21, 1, 0x0202) ∧
    (ran 0x812E (withV s1 0x81 0x21 0)).map view = some (0x42, 0x21, 0, 0x0202) := by decide

/-- T41.37x: only the flag survives in `VF`. -/
theorem test_shl_with_VF : (ran 0x8F1E (withV s0 0x40 0 0xC0)).map view = some (0x40, 0, 1, 0x0202) := by decide

/-- T41.38: the source answers 0xA7. -/
theorem test_rnd_masks :
    (reg (rndWith 0xA7 3 0x0F s0) 3, (rndWith 0xA7 3 0x0F s0).draws, (rndWith 0xA7 3 0x0F s0).pc) =
      ((0x07, 1, 0x0202) : Byte × Nat × Word) := by decide

/-- T41.39: the mask 0 gives 0 whatever the source answers, and a draw is made. -/
theorem test_rnd_zero_mask :
    (ran 0xC300 (setReg s0 3 0x11)).map (fun t => (t.draws, t.pc)) = some (1, 0x0202) := by decide

/-! ## Index register and memory -/

/-- T42.1. -/
theorem test_ldI : (ran 0xAFFF { s0 with i := 0xFFFF }).map (fun t => (t.i, t.pc)) = some (0x0FFF, 0x0202) := by decide

/-- T42.3 and T42.4. -/
theorem test_addI :
    (ran 0xF11E { withV s0 1 0 0x55 with i := 0x0FFF }).map (fun t => (t.i, reg t 0xF)) = some (0x1000, 0x55) ∧
    (ran 0xF11E { withV s0 2 0 0 with i := 0xFFFF }).map (fun t => (t.i, reg t 0xF)) = some (0x0001, 0) := by decide

/-- T42.8 and T42.10. -/
theorem test_ldGlyph :
    (ran 0xF129 (withV s0 0x0F 0 0)).map (·.i) = some 0x004B ∧
    (ran 0xF129 (withV s0 0xFF 0 0)).map (·.i) = some 0x04FB := by decide

/-- T42.15, with register 1: the last legal `I`. -/
theorem test_storeBcd_top_of_memory :
    (ran 0xF133 { withV s0 0x64 0 0 with i := 0x0FFD }).map (fun t => (t.run, Memory.readBlock t.mem 0xFFD 3)) =
      some (.running, [1, 0, 0]) := by decide

/-- T42.18, with register 1: `I + 2` is not wrapped. -/
theorem test_storeBcd_out_of_range :
    (ran 0xF133 { withV s0 0x64 0 0 with i := 0xFFFF }).map (fun t => (t.run, t.fault)) =
      some (.halted, ⟨true, .outOfBoundsFetch, 0x0200, 0xF133, true⟩) := by decide

/-- T42.20a and T42.20b, with `V0` = 0: `V3` is not stored. -/
theorem test_storeRegs :
    (ran 0xF255 { setReg (withV s0 0x22 0x33 0) 3 0x44 with i := 0x0400 }).map
      (fun t => (t.i, Memory.readBlock t.mem 0x400 4)) = some (0x0403, [0, 0x22, 0x33, 0]) ∧
    (ran 0xF255 { setReg (withV s1 0x22 0x33 0) 3 0x44 with i := 0x0400 }).map
      (fun t => (t.i, Memory.readBlock t.mem 0x400 4)) = some (0x0400, [0, 0x22, 0x33, 0]) := by decide

/-- T42.29: the store over its own first byte. -/
theorem test_storeRegs_self_modifying :
    (ran 0xF055 { setReg s0 0 0x12 with i := 0x0200 }).map (fun t => (t.ir, Memory.read t.mem 0x200)) =
      some (0xF055, 0x12) := by decide

/-- T42.28: the font is read. -/
theorem test_loadRegs_font :
    (ran 0xF165 s0).map (fun t => (reg t 0, reg t 1, t.i)) = some (0xF0, 0x90, 0x0002) := by decide

/-- T42.27: the second byte is out of range, so nothing is loaded. -/
theorem test_loadRegs_out_of_range :
    (ran 0xF165 { withV s0 0x88 0 0 with i := 0x0FFF }).map (fun t => (t.run, reg t 1, t.i)) =
      some (.halted, 0x88, 0x0FFF) := by decide

/-! ## Display -/

/-- T43.1, with one pixel on. -/
theorem test_cls :
    (ran 0x00E0 { withV s0 0 0 0x55 with fb := togglePixel s0.fb 31 63 }).map
      (fun t => (decide (t.fb = s0.fb), t.dirty, reg t 0xF, t.pc)) = some (true, true, 0x55, 0x0202) := by decide

/-- T43.6, two of its rows: the sprite wraps right and down. -/
theorem test_drw_wraps :
    (ran 0xD122 { withV s0 0xFF 0xFF 0 with i := 0x0300, mem := Memory.writeBlock [] 0x300 [0xFF, 0x81] }).map
      (fun t => (packedByte t.fb 248, packedByte t.fb 255, packedByte t.fb 0, packedByte t.fb 7, reg t 0xF)) =
      some (0xFE, 0x01, 0x02, 0x01, 0) := by decide

/-- T43.9: one pixel set, one cleared, so a collision. -/
theorem test_drw_collides :
    (ran 0xD121 { s0 with
        i := 0x0300
        mem := Memory.write [] 0x300 0xC0
        fb := togglePixel s0.fb 0 1 }).map (fun t => (packedByte t.fb 0, reg t 0xF, t.dirty)) =
      some (0x80, 1, true) := by decide

/-! ## Keys and timers -/

/-- T44.3 and T44.2. -/
theorem test_skipKey :
    (ran 0xE29E { withV s0 0 0x15 0 with keyCur := 0x0020 }).map (·.pc) = some 0x0204 ∧
    (ran 0xE29E { withV s0 0 0x05 0 with keyCur := 0x0050 }).map (·.pc) = some 0x0202 := by decide

/-- T44.4 and T44.6. -/
theorem test_skipNotKey :
    (ran 0xE2A1 (withV s0 0 0x05 0)).map (·.pc) = some 0x0204 ∧
    (ran 0xE2A1 { withV s0 0 0xFF 0 with keyCur := 0x8000 }).map (·.pc) = some 0x0202 := by decide

/-- T44.7, with register 1. -/
theorem test_readDelay : (ran 0xF107 { s0 with dt := 0x3C }).map view = some (0x3C, 0, 0, 0x0202) := by decide

/-- T44.8 and T44.10, with register 1. -/
theorem test_writeTimers :
    (ran 0xF115 (withV s0 5 0 0)).map (fun t => (t.dt, t.st)) = some (5, 0) ∧
    (ran 0xF118 (withV s0 4 0 0)).map (fun t => (t.dt, t.st)) = some (0, 4) := by decide

/-- T44.11: `PC` is held and the register is not touched. -/
theorem test_waitKey :
    (ran 0xF30A { setReg s0 3 0x99 with keyCur := 0x0080 }).map (fun t => (t.wait, t.waitReg, reg t 3, t.pc)) =
      some (true, 3, 0x99, 0x0200) := by decide

/-! ## The frame -/

/-- Sequence Q5, frame 5: keys 4 and 9 go up together, the lower one resolves the wait. -/
theorem test_release_lowest_key :
    let t := openBatch (refreshLatch 0 false { s0 with wait := true, waitReg := 5, keyCur := 0x0210, pc := 0x0202 })
    (reg t 5, t.wait, t.pc, t.phase) = ((4, false, 0x0204, .batch 0) : Byte × Bool × Word × Phase) := by decide

/-- Sequence Q2, ends of frames 2 and 3 (`ST` = 2 beeps, 1 does not), and Q1 (`DT` stays 0). -/
theorem test_sound_threshold :
    ((endFrame { s0 with st := 2 }).events, (endFrame { s0 with st := 2 }).st, (endFrame { s0 with st := 2 }).dt) =
      (([.beep 1], 1, 0) : List Event × Byte × Byte) ∧
    ((endFrame { s0 with st := 1 }).events, (endFrame { s0 with st := 1 }).st) =
      (([], 0) : List Event × Byte) := by decide

/-- Sequence Q6, end of frame 2: quit stops the machine after the frame. -/
theorem test_quit_stops :
    ((endFrame { s0 with quitPending := true }).run, (endFrame s0).run) =
      ((.stopped, .running) : RunState × RunState) := by decide

/-- T40.33: at `PC` = 4095 the fetch faults, with no word in the record. -/
theorem test_fetch_fault :
    (outState (step { inBatch with pc := 0x0FFF })).map (fun t => (t.run, t.fault)) =
      some (.halted, ⟨true, .outOfBoundsFetch, 0x0FFF, 0, false⟩) := by decide

/-- T40.32, first cycle: the last word of memory can be fetched. -/
theorem test_fetch_last_word :
    (ran 0x6005 { s0 with pc := 0x0FFE }).map (fun t => (reg t 0, t.pc)) = some (5, 0x1000) := by decide

/-- 70_reset_and_hazards.md R310 with source example S7: the image lies at 0x200, the font at 0. -/
theorem test_reset_loads :
    Memory.readBlock (resetWith s0.cfg Config.font [0x60, 0x05, 0x70, 0x03]).mem 0x200 5 = [0x60, 0x05, 0x70, 0x03, 0] ∧
    Memory.readBlock (resetWith s0.cfg Config.font []).mem 0x4B 6 = [0xF0, 0x80, 0xF0, 0x80, 0x80, 0] := by decide +kernel

/-! ## Witnesses: the hypotheses of each obligation can be met -/

theorem witness_DecodeOfEncodeIsInstruction :
    (Instr.jp 0xFFF).wf = true ∧ (Instr.unknown 0x0FFF).wf = true ∧ (Instr.drw 0xF 0xF 0xF).wf = true := by decide

/-- A word that selects the first row, one that selects the last, one that selects none. -/
theorem witness_DecodeFollowsOpcodeTable :
    opcodeRows.filter (·.selects 0x00E0) = [{ mnemonic := "00E0", bits := 0x00E0, mask := 0xFFFF }] ∧
    opcodeRows.filter (·.selects 0xFF65) = [{ mnemonic := "Fx65", bits := 0xF065, mask := 0xF0FF }] ∧
    ∀ r ∈ opcodeRows, r.selects 0x00E1 = false := by decide

theorem witness_UnknownWordIsNop : ∀ r ∈ opcodeRows, r.selects 0xFFFF = false := by decide

/-- The last address that can be fetched from. -/
theorem witness_StepRunsDecodedInstruction :
    ∃ (s : State) (left : Nat), s.run = .running ∧ s.phase = .batch (left + 1) ∧ s.wait = false ∧
      s.pc.toNat + 1 = 4095 := ⟨{ inBatch with pc := 0x0FFE }, 0, by decide⟩

/-- Each clause of the fault table at its last value without a fault. -/
theorem witness_ProgramCounterAsTabled :
    faultOf .ret { s0 with sp := 1 } = none ∧ faultOf (.call 0) { s0 with sp := 15 } = none ∧
    faultOf (.drw 0 0 0) { s0 with i := 0xFFFF } = none ∧ faultOf (.drw 0 0 1) { s0 with i := 0x0FFF } = none ∧
    faultOf (.storeBcd 0) { s0 with i := 0x0FFD } = none ∧ faultOf (.storeRegs 0) { s0 with i := 0x0FFF } = none ∧
    faultOf (.loadRegs 0xF) { s0 with i := 0x0FF0 } = none ∧ faultOf .cls s0 = none := by decide

/-- Each clause of the fault table at its first value with a fault. -/
theorem witness_FaultWritesOnlyRecord :
    faultOf .ret { s0 with sp := 0 } = some .stackUnderflow ∧ faultOf (.call 0) { s0 with sp := 16 } = some .stackOverflow ∧
    faultOf (.drw 0 0 1) { s0 with i := 0x1000 } = some .outOfBoundsFetch ∧
    faultOf (.storeBcd 0) { s0 with i := 0x0FFE } = some .outOfBoundsFetch ∧
    faultOf (.storeRegs 0) { s0 with i := 0x1000 } = some .outOfBoundsFetch ∧
    faultOf (.loadRegs 0xF) { s0 with i := 0x0FF1 } = some .outOfBoundsFetch := by decide

/-- The first address that cannot be fetched from, and the last. -/
theorem witness_FetchOutOfRangeHalts :
    ∃ s t : State, (s.run = .running ∧ s.phase = .batch (0 + 1) ∧ s.wait = false ∧ s.pc.toNat + 1 = 4096) ∧
      t.run = .running ∧ t.phase = .batch (0 + 1) ∧ t.wait = false ∧ t.pc.toNat + 1 = 65536 :=
  ⟨{ inBatch with pc := 0x0FFF }, { inBatch with pc := 0xFFFF }, by decide⟩

theorem witness_FrameStartTakesSamples : State.reset.run = .running ∧ State.reset.phase = .frameStart := by decide

theorem witness_StepsRealiseFrame : s0.run = .running ∧ s0.phase = .frameStart := by decide

theorem witness_FrameStartOpensBatch : State.reset.wait = false := by decide

/-- A release edge at key 0, one at key 15 with no lower edge, and no edge at all. -/
theorem witness_ReleaseEdgeResolvesWait :
    ∃ s : State, s.wait = true ∧
      (s.keyCur.getLsbD 0 = true ∧ (0x8000 : BitVec 16).getLsbD 0 = false ∧
        ∀ j < 0, ¬ (s.keyCur.getLsbD j = true ∧ (0x8000 : BitVec 16).getLsbD j = false)) ∧
      (s.keyCur.getLsbD 15 = true ∧ (0x0001 : BitVec 16).getLsbD 15 = false ∧
        ∀ j < 15, ¬ (s.keyCur.getLsbD j = true ∧ (0x0001 : BitVec 16).getLsbD j = false)) ∧
      ∀ k < 16, ¬ (s.keyCur.getLsbD k = true ∧ (0x8001 : BitVec 16).getLsbD k = false) :=
  ⟨{ s0 with wait := true, waitReg := 0xF, keyCur := 0x8001 }, by decide⟩

/-- A batch used up, and a batch abandoned by a wait. -/
theorem witness_FrameEndPresentsTicksBeeps :
    ({ s0 with phase := .batch 0 } : State).run = .running ∧
    (∃ left, ({ s0 with phase := .batch 4, wait := true } : State).phase = .batch (left + 1) ∧
      ({ s0 with phase := .batch 4, wait := true } : State).wait = true) := ⟨rfl, 3, rfl, rfl⟩

theorem witness_HaltedOrStoppedHasNoStep :
    ({ s0 with run := .halted } : State).run = .halted ∧ ({ s0 with run := .stopped } : State).run = .stopped := by
  decide

theorem reset_inv : Inv State.reset :=
  { memory := Memory.wf_nil
    faultIffHalted := by decide
    waitNotHalted := by decide
    waitAtKeyWord := by intro h; exact absurd h (by decide)
    cleanBetweenFrames := by decide
    stoppedIffQuit := by decide
    stoppedBetweenFrames := by decide
    haltedInBatch := by decide
    batchNonempty := Nat.le_add_left 1 _ }

/-- The invariant can be met by a state with a next state; so can every clause about a waiting machine. -/
theorem witness_StepKeepsInvariant :
    (∃ t, Inv State.reset ∧ step State.reset = .next t) ∧
    ∃ s t : State, Inv s ∧ s.wait = true ∧ step s = .next t := by
  refine ⟨⟨_, reset_inv, rfl⟩, ⟨{ s0 with wait := true, waitReg := 5, mem := Memory.writeBlock [] 0x200 [0xF5, 0x0A], phase := .batch 1 }, _, ?_, rfl, rfl⟩⟩
  exact
    { memory := by decide
      faultIffHalted := by decide
      waitNotHalted := by decide
      waitAtKeyWord := fun _ => ⟨0xF50A, by decide, by decide⟩
      cleanBetweenFrames := by decide
      stoppedIffQuit := by decide
      stoppedBetweenFrames := by decide
      haltedInBatch := by decide
      batchNonempty := by decide }

theorem witness_StepKeepsLatchSamples :
    ∃ t, LatchHoldsSamples State.reset ∧ step State.reset = .next t :=
  ⟨_, ⟨by decide, rfl, rfl⟩, rfl⟩

/-- Each of the four shapes of a step has a next state. -/
theorem witness_StepKeepsParameters :
    (outState (step s0)).isSome = true ∧ (outState (step inBatch)).isSome = true ∧
    (outState (step { s0 with phase := .batch 0 })).isSome = true ∧
    (outState (step { inBatch with pc := 0xFFFF })).isSome = true := by decide

/-- Frame ends with both events, with one, and with none. -/
theorem witness_SinksHearAtFrameEndOnly :
    (outState (step { s0 with phase := .batch 0, dirty := true, st := 2 })).map (·.events.length) = some 2 ∧
    (outState (step { s0 with phase := .batch 0, st := 2 })).map (·.events.length) = some 1 ∧
    (outState (step { s0 with phase := .batch 0 })).map (·.events.length) = some 0 := by decide

theorem witness_ResetLoadsFontAndImage : Config.font.length = 80 ∧ (List.replicate 80 (0xFF : Byte)).length = 80 := by
  decide

theorem witness_RegistersWrittenAsTabled :
    ∃ t u, exec (.loadRegs 3) s0 = .next t ∧ writesReg (.loadRegs 3) 4 = false ∧
      exec (.addReg 1 2) s0 = .next u ∧ writesReg (.addReg 1 2) 2 = false :=
  ⟨_, _, rfl, by decide, rfl, by decide⟩

theorem witness_OtherStateWrittenAsNamed : ∃ t, exec (.drw 0 0 5) s0 = .next t := ⟨_, rfl⟩

/-- A storing form with addresses on both sides of its block, and a form that stores nothing. -/
theorem witness_MemoryWrittenAsTabled :
    ∃ t u, exec (.storeBcd 1) { s0 with i := 0x300 } = .next t ∧
      (¬ ((0x300 : Word).toNat ≤ 0x2FF ∧ 0x2FF < (0x300 : Word).toNat + storeLength (.storeBcd 1))) ∧
      (¬ ((0x300 : Word).toNat ≤ 0x303 ∧ 0x303 < (0x300 : Word).toNat + storeLength (.storeBcd 1))) ∧
      exec (.loadRegs 1) s0 = .next u ∧ storeLength (.loadRegs 1) = 0 :=
  ⟨_, _, rfl, by decide, by decide, rfl, by decide⟩

/-- Memories that differ outside the block `Fx65` reads. -/
theorem witness_MemoryReadAsTabled :
    ∃ t, storeLength (.loadRegs 1) = 0 ∧
      (∀ a, s0.i.toNat ≤ a → a < s0.i.toNat + loadLength (.loadRegs 1) →
        Memory.read (Memory.write [] 2 0) a = Memory.read s0.mem a) ∧ exec (.loadRegs 1) s0 = .next t := by
  refine ⟨_, by decide, fun a h1 h2 => ?_, rfl⟩
  simp only [loadLength, s0, State.reset] at h2
  have h : a < 2 := by simpa using h2
  rw [Memory.read_write, if_neg (by omega)]
  rfl

theorem witness_FramebufferReadByDrawOnly :
    ∃ t u, ((∀ x y n, Instr.cls ≠ .drw x y n) ∧ exec .cls s0 = .next t) ∧
      (∀ x y n, Instr.storeRegs 2 ≠ .drw x y n) ∧ exec (.storeRegs 2) s0 = .next u :=
  ⟨_, _, ⟨by simp, rfl⟩, by simp, rfl⟩

/-- Two ways of writing the same two bytes. -/
theorem witness_CanonicalMemoriesReadAlikeEqual :
    Memory.wf (Memory.write (Memory.write [] 0x300 5) 4095 7) ∧
    Memory.wf (Memory.write (Memory.write [] 4095 7) 0x300 5) ∧
    ∀ a < 4096, Memory.read (Memory.write (Memory.write [] 0x300 5) 4095 7) a =
      Memory.read (Memory.write (Memory.write [] 4095 7) 0x300 5) a := by
  refine ⟨by decide, by decide, fun a _ => ?_⟩
  simp only [Memory.read_write]
  split <;> split <;> first | rfl | omega

/-- The deepest stack that takes a call, and the full stack. -/
theorem witness_CallPushesReturnAddress :
    ({ s0 with sp := 15 } : State).sp.val < 16 ∧ ({ s0 with sp := 16 } : State).sp.val = 16 := by decide

theorem witness_ReturnAfterCallComesBack : ({ s0 with sp := 15 } : State).sp.val < 16 ∧ s0.sp.val < 16 := by decide

/-- One entry, a full stack, and an empty one. -/
theorem witness_ReturnPopsNewestEntry :
    ({ s0 with sp := 1 } : State).sp.val = (0 : Fin 16).val + 1 ∧
    ({ s0 with sp := 16 } : State).sp.val = (15 : Fin 16).val + 1 ∧ s0.sp.val = 0 := by decide

/-- Both settings of the shift source, with registers that differ. -/
theorem witness_ShiftsWriteBitOut :
    (0x81 : Nat) = (if (withV s0 0x81 0x42 0).cfg.shiftSource = .vx then (reg (withV s0 0x81 0x42 0) 1).toNat
      else (reg (withV s0 0x81 0x42 0) 2).toNat) ∧
    (0x42 : Nat) = (if (withV s1 0x81 0x42 0).cfg.shiftSource = .vx then (reg (withV s1 0x81 0x42 0) 1).toNat
      else (reg (withV s1 0x81 0x42 0) 2).toNat) := by decide

/-- The last `I` that stores and the first that faults. -/
theorem witness_BcdStoresThreeDigits :
    ({ s0 with i := 0x0FFD } : State).i.toNat + 2 = 4095 ∧ ({ s0 with i := 0x0FFE } : State).i.toNat + 2 > 4095 := by
  decide

/-- The last block of memory, for the shortest and for the longest transfer. -/
theorem witness_StoreRegistersFillsBlock :
    ({ s0 with i := 0x0FFF } : State).i.toNat + (0 : Nibble).toNat = 4095 ∧
    ({ s0 with i := 0x0FF0 } : State).i.toNat + (0xF : Nibble).toNat = 4095 := by decide

theorem witness_LoadRegistersReadsBlock : s0.i.toNat + (0xF : Nibble).toNat ≤ 4095 ∧
    ({ s0 with i := 0x0FF0 } : State).i.toNat + (0xF : Nibble).toNat = 4095 := by decide

theorem witness_LoadAfterStoreRestores : ({ s0 with i := 0x0400 } : State).i.toNat + (3 : Nibble).toNat ≤ 4095 := by
  decide

/-- No row at an `I` outside memory, and a sprite that ends at the last byte. -/
theorem witness_DrawInvertsCoveredPixels :
    ((0 : Nibble).toNat = 0 ∨ ({ s0 with i := 0xFFFF } : State).i.toNat + (0 : Nibble).toNat ≤ 4096) ∧
    ((3 : Nibble).toNat = 0 ∨ ({ s0 with i := 0x0FFD } : State).i.toNat + (3 : Nibble).toNat ≤ 4096) := by decide

theorem witness_SecondDrawRestores :
    (0 : Nibble) ≠ 0xF ∧ (1 : Nibble) ≠ 0xF ∧ ((5 : Nibble).toNat = 0 ∨ s0.i.toNat + (5 : Nibble).toNat ≤ 4096) := by
  decide

theorem witness_BlitEqualsByteForm : 0 < 64 ∧ 63 < 64 := by decide

/-- The wait set in a running batch. -/
theorem witness_WaitKeyHoldsAndEndsBatch :
    inBatch.run = .running ∧ inBatch.phase = .batch 1 ∧ ({ s0 with phase := .batch 0 } : State).phase = .batch 0 := by
  decide

end Sys2Proof.Tests
end

section
/-! SUPPORT. O2: the decoder follows the opcode rows of 30_encoding.md R98. Encoding what a word decodes to gives the word back, so the row of the decoded instruction selects the word; conversely a row that selects a word fixes the fields its mask covers, and these fix the decoder's branch. -/

namespace Sys2Proof

/-! ### Encoding what a word decodes to -/

theorem packNibbles_of_fields {w : Word} {op n : Nibble} (hop : (fieldOp w).toNat = op.toNat)
    (hn : (fieldN w).toNat = n.toNat) : packNibbles op (fieldX w) (fieldY w) n = w := by
  rw [← BitVec.eq_of_toNat_eq hop, ← BitVec.eq_of_toNat_eq hn, packNibbles_fields]

theorem packImm_of_fields {w : Word} {op : Nibble} {nn : Byte} (hop : (fieldOp w).toNat = op.toNat)
    (hnn : (fieldNn w).toNat = nn.toNat) : packImm op (fieldX w) nn = w := by
  rw [← BitVec.eq_of_toNat_eq hop, ← BitVec.eq_of_toNat_eq hnn, packImm_fields]

theorem packAddr_of_fields {w : Word} {op : Nibble} (hop : (fieldOp w).toNat = op.toNat) :
    packAddr op (fieldNnn w) = w := by
  rw [← BitVec.eq_of_toNat_eq hop, packAddr_fields]

theorem encode_decodeEight {w : Word} (hop : (fieldOp w).toNat = 0x8) : encode (decodeEight w) = w := by
  unfold decodeEight
  split
  case h_10 => rfl
  all_goals next hn => exact packNibbles_of_fields hop hn

theorem encode_decodeKeys {w : Word} (hop : (fieldOp w).toNat = 0xE) : encode (decodeKeys w) = w := by
  unfold decodeKeys
  split
  · next hnn => exact packImm_of_fields hop hnn
  · next hnn => exact packImm_of_fields hop hnn
  · rfl

theorem encode_decodeMisc {w : Word} (hop : (fieldOp w).toNat = 0xF) : encode (decodeMisc w) = w := by
  unfold decodeMisc
  split
  case h_10 => rfl
  all_goals next hnn => exact packImm_of_fields hop hnn

/-- No bit of a word is lost in decoding (R92, R100). -/
theorem encode_decodeWord (w : Word) : encode (decodeWord w) = w := by
  unfold decodeWord
  split <;> rename_i hop
  · split_ifs with h h'
    · exact h.symm
    · exact h'.symm
    · rfl
  · exact packAddr_of_fields hop
  · exact packAddr_of_fields hop
  · exact packImm_of_fields hop rfl
  · exact packImm_of_fields hop rfl
  · split_ifs with hn
    · exact packNibbles_of_fields hop (congrArg BitVec.toNat hn)
    · rfl
  · exact packImm_of_fields hop rfl
  · exact packImm_of_fields hop rfl
  · exact encode_decodeEight hop
  · split_ifs with hn
    · exact packNibbles_of_fields hop (congrArg BitVec.toNat hn)
    · rfl
  · exact packAddr_of_fields hop
  · exact packAddr_of_fields hop
  · exact packImm_of_fields hop rfl
  · exact packNibbles_of_fields hop rfl
  · exact encode_decodeKeys hop
  · have hF : (fieldOp w).toNat = 0xF := by
      have hlt := (fieldOp w).isLt
      simp only [imp_false] at *
      omega
    exact encode_decodeMisc hF

/-! ### From the decoded instruction to a row -/

namespace Laws.FixedBits

/-- The family of fixed-bits facts, assembled: it holds of every instruction. -/
theorem statement_holds (i : Instr) : Statement i :=
  match i with
  | .cls => cls
  | .ret => ret
  | .jp nnn => jp nnn
  | .call nnn => call nnn
  | .skipEqImm x nn => skipEqImm x nn
  | .skipNeImm x nn => skipNeImm x nn
  | .skipEqReg x y => skipEqReg x y
  | .ldImm x nn => ldImm x nn
  | .addImm x nn => addImm x nn
  | .ldReg x y => ldReg x y
  | .orReg x y => orReg x y
  | .andReg x y => andReg x y
  | .xorReg x y => xorReg x y
  | .addReg x y => addReg x y
  | .subReg x y => subReg x y
  | .shr x y => shr x y
  | .subnReg x y => subnReg x y
  | .shl x y => shl x y
  | .skipNeReg x y => skipNeReg x y
  | .ldI nnn => ldI nnn
  | .jpV0 nnn => jpV0 nnn
  | .rnd x nn => rnd x nn
  | .drw x y n => drw x y n
  | .skipKey x => skipKey x
  | .skipNotKey x => skipNotKey x
  | .readDelay x => readDelay x
  | .waitKey x => waitKey x
  | .writeDelay x => writeDelay x
  | .writeSound x => writeSound x
  | .addI x => addI x
  | .ldGlyph x => ldGlyph x
  | .storeBcd x => storeBcd x
  | .storeRegs x => storeRegs x
  | .loadRegs x => loadRegs x
  | .unknown w => unknown w

/-- Every instruction but `UNKNOWN` has a row, and is well formed. -/
theorem unknown_or_rowOf (i : Instr) : (∃ w, i = .unknown w) ∨ i.wf = true ∧ ∃ r, rowOf i = some r := by
  cases i with
  | unknown w => exact .inl ⟨w, rfl⟩
  | _ => exact .inr ⟨rfl, _, rfl⟩

end Laws.FixedBits

open Laws.FixedBits in
/-- A word no row selects is `UNKNOWN`: any other instruction has a row, which selects its encoding. -/
theorem decodeWord_of_no_row {w : Word} (h : ∀ r ∈ opcodeRows, r.selects w = false) :
    decodeWord w = .unknown w := by
  have henc := encode_decodeWord w
  rcases unknown_or_rowOf (decodeWord w) with ⟨v, hv⟩ | ⟨hwf, r, hr⟩
  · rw [hv] at henc ⊢
    exact congrArg Instr.unknown henc
  · have hsel : r.selects (encode (decodeWord w)) = true := statement_holds _ hwf r hr
    rw [henc, h r (List.mem_of_find?_eq_some hr)] at hsel
    cases hsel

/-! ### From a row to the decoded instruction -/

theorem and_mask_of_selects {r : OpcodeRow} {w : Word} (h : r.selects w = true) : w &&& r.mask = r.bits :=
  eq_of_beq h

/-- Where a row's mask covers a field, the words it selects have the row's value in that field. -/
theorem extractLsb'_of_selects {r : OpcodeRow} {w : Word} {start len : Nat} (h : r.selects w = true)
    (hm : r.mask.extractLsb' start len = BitVec.allOnes len) :
    w.extractLsb' start len = r.bits.extractLsb' start len := by
  rw [← and_mask_of_selects h, BitVec.extractLsb'_and, hm, BitVec.and_allOnes]

/-- Rows of format `ADDR`, `XIMM` and `XYN`: `op` alone fixes the branch of the decoder (R99). -/
theorem mnemonic_of_fieldOp {w : Word} : ∀ r ∈ opcodeRows, r.mask = 0xF000 → fieldOp w = fieldOp r.bits →
    (decodeWord w).mnemonic = r.mnemonic := by
  simp only [opcodeRows, List.forall_mem_append, List.forall_mem_cons]
  simp +contextual [decodeWord, fieldOp, Instr.mnemonic]

/-- Rows of format `XYF`: `op` and `n` fix the branch of the decoder (R99). -/
theorem mnemonic_of_fieldOp_fieldN {w : Word} : ∀ r ∈ opcodeRows, r.mask = 0xF00F → fieldOp w = fieldOp r.bits →
    fieldN w = fieldN r.bits → (decodeWord w).mnemonic = r.mnemonic := by
  simp only [opcodeRows, List.forall_mem_append, List.forall_mem_cons]
  simp +contextual [decodeWord, decodeEight, fieldOp, fieldN, Instr.mnemonic]

/-- Rows of format `XF`: `op` and the whole low byte fix the branch of the decoder (R99). -/
theorem mnemonic_of_fieldOp_fieldNn {w : Word} : ∀ r ∈ opcodeRows, r.mask = 0xF0FF → fieldOp w = fieldOp r.bits →
    fieldNn w = fieldNn r.bits → (decodeWord w).mnemonic = r.mnemonic := by
  simp only [opcodeRows, List.forall_mem_append, List.forall_mem_cons]
  simp +contextual [decodeWord, decodeKeys, decodeMisc, fieldOp, fieldNn, Instr.mnemonic]

/-- Rows of format `FIX`: the row selects one word. -/
theorem mnemonic_decodeWord_bits :
    ∀ r ∈ opcodeRows, r.mask = 0xFFFF → (decodeWord r.bits).mnemonic = r.mnemonic := by
  decide

theorem opcodeRows_mask_cases :
    ∀ r ∈ opcodeRows, r.mask = 0xF000 ∨ r.mask = 0xF00F ∨ r.mask = 0xF0FF ∨ r.mask = 0xFFFF := by
  decide

theorem mnemonic_decodeWord_of_selects {r : OpcodeRow} {w : Word} (hr : r ∈ opcodeRows) (h : r.selects w = true) :
    (decodeWord w).mnemonic = r.mnemonic := by
  rcases opcodeRows_mask_cases r hr with hm | hm | hm | hm
  · exact mnemonic_of_fieldOp r hr hm (extractLsb'_of_selects h (by rw [hm]; rfl))
  · exact mnemonic_of_fieldOp_fieldN r hr hm (extractLsb'_of_selects h (by rw [hm]; rfl))
      (extractLsb'_of_selects h (by rw [hm]; rfl))
  · exact mnemonic_of_fieldOp_fieldNn r hr hm (extractLsb'_of_selects h (by rw [hm]; rfl))
      (extractLsb'_of_selects h (by rw [hm]; rfl))
  · have hw : w = r.bits := by rw [← and_mask_of_selects h, hm]; exact BitVec.and_allOnes.symm
    rw [hw]
    exact mnemonic_decodeWord_bits r hr hm

/-! ### The rows are pairwise disjoint -/

/-- Rows whose fixed bits agree where both masks look are the same row (R98). -/
theorem opcodeRows_disjoint : ∀ r ∈ opcodeRows, ∀ r' ∈ opcodeRows,
    r.bits &&& r'.mask = r'.bits &&& r.mask → r = r' := by
  decide

theorem eq_of_selects {r r' : OpcodeRow} {w : Word} (hr : r ∈ opcodeRows) (hr' : r' ∈ opcodeRows)
    (h : r.selects w = true) (h' : r'.selects w = true) : r = r' := by
  refine opcodeRows_disjoint r hr r' hr' ?_
  calc r.bits &&& r'.mask = w &&& r.mask &&& r'.mask := by rw [and_mask_of_selects h]
    _ = w &&& r'.mask &&& r.mask := by ac_rfl
    _ = r'.bits &&& r.mask := by rw [and_mask_of_selects h']

/-- Settles O2: a row that selects a word fixes the decoder's branch, a decoded instruction's row selects its encoding, and that encoding is the word. -/
theorem decodeFollowsOpcodeTable : Obligations.DecodeFollowsOpcodeTable :=
  fun w => ⟨fun _ hr h => mnemonic_decodeWord_of_selects hr h, decodeWord_of_no_row,
    fun _ hr _ hr' h h' => eq_of_selects hr hr' h h', encode_decodeWord w⟩

end Sys2Proof
end

section
/-! SUPPORT. O30 and O35: a jump and the skips on register contents write `PC` only (40_control_flow.md R122, R124 to R127). -/

namespace Sys2Proof.Machine

/-! ### What the jump and the skips execute -/

theorem exec_jp (nnn : Imm12) (s : State) : exec (.jp nnn) s = .next (endJump s (addressOf nnn)) := rfl

theorem exec_skipEqImm (x : Nibble) (nn : Byte) (s : State) :
    exec (.skipEqImm x nn) s = .next (endSkip s (reg s x == nn)) := rfl

theorem exec_skipNeImm (x : Nibble) (nn : Byte) (s : State) :
    exec (.skipNeImm x nn) s = .next (endSkip s (reg s x != nn)) := rfl

theorem exec_skipEqReg (x y : Nibble) (s : State) :
    exec (.skipEqReg x y) s = .next (endSkip s (reg s x == reg s y)) := rfl

theorem exec_skipNeReg (x y : Nibble) (s : State) :
    exec (.skipNeReg x y) s = .next (endSkip s (reg s x != reg s y)) := rfl

/-! ### Where they go -/

/-- Zero extension keeps the address (R96). -/
theorem toNat_addressOf (nnn : Imm12) : (addressOf nnn).toNat = nnn.toNat :=
  BitVec.toNat_setWidth_of_le (by decide)

/-- The end of a skip on equal bytes, with the bytes compared as numbers (R124, R126). -/
theorem endSkip_beq (s : State) (a b : Byte) :
    endSkip s (a == b) = { s with pc := if a.toNat = b.toNat then s.pc + 4 else s.pc + 2 } := by
  simp only [endSkip_onlyPc, beq_iff_eq, BitVec.toNat_inj]

/-- The end of a skip on different bytes: the branches of `endSkip_beq`, exchanged (R125, R127). -/
theorem endSkip_bne (s : State) (a b : Byte) :
    endSkip s (a != b) = { s with pc := if a.toNat = b.toNat then s.pc + 2 else s.pc + 4 } := by
  simp only [endSkip_onlyPc, bne_iff_ne, ne_eq, ite_not, BitVec.toNat_inj]

/-- Settles O30: the jump ends at the zero-extended immediate. -/
theorem jumpGoesToImmediate : Obligations.JumpGoesToImmediate :=
  fun nnn s => ⟨endJump s (addressOf nnn), exec_jp nnn s, toNat_addressOf nnn, rfl⟩

/-- Settles O35: each of the four ends as a skip on one comparison of two bytes. -/
theorem registerSkipsTestOperands : Obligations.RegisterSkipsTestOperands := by
  intro x y nn s
  refine ⟨?_, ?_, ?_, ?_⟩
  · rw [exec_skipEqImm, endSkip_beq]
  · rw [exec_skipNeImm, endSkip_bne]
  · rw [exec_skipEqReg, endSkip_beq]
  · rw [exec_skipNeReg, endSkip_bne]

end Sys2Proof.Machine
end

section
/-! SUPPORT. O37, O39, O40 and O41: the loads, the additions and the subtractions write `Vx`, the last two of them `VF` after it, and move `PC` on (41_alu.md R154 to R156, R160, R161, R164). -/

namespace Sys2Proof.Machine

/-! ### The two ends of an arithmetic instruction -/

/-- The end of an instruction without a flag: `V[x] <- b`, then signal `NEXT`. -/
def endWrite (s : State) (x : Nibble) (b : Byte) : State := endNext (setReg s x b)

/-- The end of an instruction with a flag: `V[x] <- b`, last `V[F] <- flag`, then signal `NEXT` (10_state.md R23, R24). -/
def endFlagged (s : State) (x : Nibble) (b : Byte) (flag : Bool) : State := endNext (setFlag (setReg s x b) flag)

theorem endWrite_onlyRegsPc (s : State) (x : Nibble) (b : Byte) :
    endWrite s x b = { s with v := (endWrite s x b).v, pc := s.pc + 2 } := rfl

theorem endFlagged_onlyRegsPc (s : State) (x : Nibble) (b : Byte) (flag : Bool) :
    endFlagged s x b flag = { s with v := (endFlagged s x b flag).v, pc := s.pc + 2 } := rfl

theorem reg_endWrite (s : State) (x j : Nibble) (b : Byte) :
    reg (endWrite s x b) j = if j = x then b else reg s j := by
  rw [endWrite, reg_endNext, reg_setReg]

/-- The flag is written last, so it hides the result where `x` is F. -/
theorem reg_endFlagged (s : State) (x j : Nibble) (b : Byte) (flag : Bool) :
    reg (endFlagged s x b flag) j = if j = 0xF then flagByte flag else if j = x then b else reg s j := by
  rw [endFlagged, reg_endNext, reg_setFlag, reg_setReg]

theorem toNat_flagByte_decide (p : Prop) [Decidable p] : (flagByte (decide p)).toNat = if p then 1 else 0 := by
  by_cases h : p <;> simp [flagByte, h]

/-- `reg_endFlagged` in numbers, for the flag of a condition. -/
theorem toNat_reg_endFlagged (s : State) (x j : Nibble) (b : Byte) (p : Prop) [Decidable p] :
    (reg (endFlagged s x b (decide p)) j).toNat =
      if j = 0xF then (if p then 1 else 0) else if j = x then b.toNat else (reg s j).toNat := by
  rw [reg_endFlagged, apply_ite BitVec.toNat, apply_ite BitVec.toNat, toNat_flagByte_decide]

/-! ### Sum and difference as numbers -/

theorem toNat_addByte (a b : Byte) : (addByte a b).toNat = (a.toNat + b.toNat) % 256 := BitVec.toNat_ofNat ..

/-- The difference mod 256 is that of the integers, which the model's natural number stands 256 above. -/
theorem toNat_subByte (a b : Byte) : ((subByte a b).toNat : Int) = ((a.toNat : Int) - b.toNat) % 256 := by
  have hb : b.toNat < 256 := b.isLt
  have hsub : (subByte a b).toNat = (a.toNat + 256 - b.toNat) % 256 := BitVec.toNat_ofNat ..
  omega

/-- A subtraction ending with the flag of no borrow, in numbers: both `8xy5` and `8xy7` end so, with the operands exchanged. -/
theorem reg_endFlagged_subByte (s : State) (x j : Nibble) (a b : Byte) :
    ((reg (endFlagged s x (subByte a b) (noBorrow a b)) j).toNat : Int) =
      if j = 0xF then (if a.toNat ≥ b.toNat then 1 else 0)
      else if j = x then ((a.toNat : Int) - b.toNat) % 256 else (reg s j).toNat := by
  rw [noBorrow, toNat_reg_endFlagged, ← toNat_subByte]
  push_cast
  rfl

/-! ### How the instructions end -/

theorem exec_ldImm (x : Nibble) (nn : Byte) (s : State) : exec (.ldImm x nn) s = .next (endWrite s x nn) := rfl

theorem exec_ldReg (x y : Nibble) (s : State) : exec (.ldReg x y) s = .next (endWrite s x (reg s y)) := rfl

theorem exec_addImm (x : Nibble) (nn : Byte) (s : State) :
    exec (.addImm x nn) s = .next (endWrite s x (addByte (reg s x) nn)) := rfl

theorem exec_addReg (x y : Nibble) (s : State) :
    exec (.addReg x y) s = .next (endFlagged s x (addByte (reg s x) (reg s y)) (carryOut (reg s x) (reg s y))) := rfl

theorem exec_subReg (x y : Nibble) (s : State) :
    exec (.subReg x y) s = .next (endFlagged s x (subByte (reg s x) (reg s y)) (noBorrow (reg s x) (reg s y))) := rfl

theorem exec_subnReg (x y : Nibble) (s : State) :
    exec (.subnReg x y) s = .next (endFlagged s x (subByte (reg s y) (reg s x)) (noBorrow (reg s y) (reg s x))) := rfl

/-! ### The obligations -/

/-- Settles O37: each of the two loads ends as one write of its operand. -/
theorem loadsWriteTheirRegister : Obligations.LoadsWriteTheirRegister :=
  fun x y nn s =>
    ⟨⟨_, exec_ldImm x nn s, fun j => reg_endWrite s x j nn, endWrite_onlyRegsPc ..⟩,
      ⟨_, exec_ldReg x y s, fun j => reg_endWrite s x j (reg s y), endWrite_onlyRegsPc ..⟩⟩

/-- Settles O39: the addition ends as one write of the sum, so no other register is written, `VF` among them. -/
theorem addImmediateWraps : Obligations.AddImmediateWraps := by
  intro x nn s
  refine ⟨_, exec_addImm x nn s, ?_, fun j hj => ?_, endWrite_onlyRegsPc ..⟩
  · rw [reg_endWrite, if_pos rfl, toNat_addByte]
  · rw [reg_endWrite, if_neg hj]

/-- Settles O40: the addition ends with the flag of its carry. -/
theorem addWritesCarry : Obligations.AddWritesCarry := by
  intro x y s
  refine ⟨_, exec_addReg x y s, fun j => ?_, endFlagged_onlyRegsPc ..⟩
  rw [carryOut, toNat_reg_endFlagged, toNat_addByte]

/-- Settles O41: both subtractions end with the flag of no borrow. -/
theorem subtractsWriteNoBorrow : Obligations.SubtractsWriteNoBorrow :=
  fun x y s =>
    ⟨⟨_, exec_subReg x y s, fun j => reg_endFlagged_subByte s x j (reg s x) (reg s y), endFlagged_onlyRegsPc ..⟩,
      ⟨_, exec_subnReg x y s, fun j => reg_endFlagged_subByte s x j (reg s y) (reg s x), endFlagged_onlyRegsPc ..⟩⟩

end Sys2Proof.Machine
end

section
/-! SUPPORT. O44: loading `I` with an address writes `I` and moves `PC` on (42_index_memory.md R181). -/

namespace Sys2Proof.Machine

theorem exec_ldI (nnn : Imm12) (s : State) : exec (.ldI nnn) s = .next (endNext { s with i := addressOf nnn }) := rfl

/-- Settles O44: the load ends with `I` at the zero-extended immediate. -/
theorem loadIndexZeroExtends : Obligations.LoadIndexZeroExtends :=
  fun nnn s => ⟨endNext { s with i := addressOf nnn }, exec_ldI nnn s, toNat_addressOf nnn, rfl⟩

end Sys2Proof.Machine
end

section
/-! SUPPORT. O1, O3 and O4: the decoder's `UNKNOWN` arms are the table of 30_encoding.md R102, arm by arm, and decoding undoes encoding (R93, R98). -/

namespace Sys2Proof

/-! ### The `UNKNOWN` arms -/

theorem decodeEight_eq_unknown_iff (w : Word) : decodeEight w = .unknown w ↔
    [0x8, 0x9, 0xA, 0xB, 0xC, 0xD, 0xF].contains (fieldN w).toNat = true := by
  have hlt := (fieldN w).isLt
  unfold decodeEight
  generalize (fieldN w).toNat = n at *
  interval_cases n <;> simp

theorem decodeKeys_eq_unknown_iff (w : Word) : decodeKeys w = .unknown w ↔
    (!([0x9E, 0xA1].contains (fieldNn w).toNat)) = true := by
  unfold decodeKeys
  split <;> simp_all

theorem decodeMisc_eq_unknown_iff (w : Word) : decodeMisc w = .unknown w ↔
    (!([0x07, 0x0A, 0x15, 0x18, 0x1E, 0x29, 0x33, 0x55, 0x65].contains (fieldNn w).toNat)) = true := by
  unfold decodeMisc
  split <;> simp_all

/-- The decoder and the table branch on `op` alike, and agree in each branch. -/
theorem decodeWord_eq_unknown_iff (w : Word) : decodeWord w = .unknown w ↔ inUnknownSpace w = true := by
  have hop : w.extractLsb' 12 4 = fieldOp w := rfl
  have hn : w.extractLsb' 0 4 = fieldN w := rfl
  have hnn : w.extractLsb' 0 8 = fieldNn w := rfl
  have hlt := (fieldOp w).isLt
  unfold decodeWord inUnknownSpace
  rw [hop, hn, hnn]
  generalize (fieldOp w).toNat = op at *
  match op, hlt with
  | 0x0, _ => split_ifs <;> simp_all
  | 0x5, _ | 0x9, _ => split_ifs <;> simp_all
  | 0x8, _ => exact decodeEight_eq_unknown_iff w
  | 0xE, _ => exact decodeKeys_eq_unknown_iff w
  | 0xF, _ => exact decodeMisc_eq_unknown_iff w
  | 0x1, _ | 0x2, _ | 0x3, _ | 0x4, _ | 0x6, _ | 0x7, _ | 0xA, _ | 0xB, _ | 0xC, _ | 0xD, _ => simp
  | n + 16, h => omega

/-- Every word decodes to a well-formed instruction: an `UNKNOWN` descriptor holds the word itself. -/
theorem wf_decodeWord (w : Word) : (decodeWord w).wf = true := by
  rcases Laws.FixedBits.unknown_or_rowOf (decodeWord w) with ⟨v, hv⟩ | ⟨hwf, -⟩
  · have hvw : v = w := by simpa [hv, encode] using encode_decodeWord w
    rw [hvw] at hv
    rw [hv]
    exact (decodeWord_eq_unknown_iff w).mp hv
  · exact hwf

/-- Settles O3: the decoder's arms follow the table. -/
theorem unknownWordsAsTabled : Obligations.UnknownWordsAsTabled :=
  fun w => ⟨decodeWord_eq_unknown_iff w, wf_decodeWord w⟩

/-! ### Decoding an encoded instruction -/

/-- Settles O1: the fields of an encoded instruction select the decoder's arm for it; an `UNKNOWN` descriptor is its own word. -/
theorem decodeOfEncodeIsInstruction : Obligations.DecodeOfEncodeIsInstruction := by
  intro i hwf
  cases i with
  | unknown w => exact (decodeWord_eq_unknown_iff w).mpr hwf
  | cls | ret => rfl
  | ldReg | orReg | andReg | xorReg | addReg | subReg | shr | subnReg | shl =>
    simp [encode, decodeWord, decodeEight]
  | skipKey | skipNotKey => simp [encode, decodeWord, decodeKeys]
  | readDelay | waitKey | writeDelay | writeSound | addI | ldGlyph | storeBcd | storeRegs | loadRegs =>
    simp [encode, decodeWord, decodeMisc]
  | _ => simp [encode, decodeWord]

/-- Settles O4: the ten words are decoded. -/
theorem sampleWordsDecode : Obligations.SampleWordsDecode := by
  unfold Obligations.SampleWordsDecode
  decide

end Sys2Proof
end

section
/-! SUPPORT. O31 to O34 and O36: the jump with offset, the call stack and the no-op (40_control_flow.md R121, R123, R128, R129). -/

namespace Sys2Proof.Machine

/-! ### What these instructions execute -/

theorem exec_jpV0 (nnn : Imm12) (s : State) :
    exec (.jpV0 nnn) s = .next (endJump s (addressOf nnn + extendByte (reg s 0))) := rfl

theorem exec_unknown (w : Word) (s : State) : exec (.unknown w) s = .next (endNext s) := rfl

theorem exec_call_of_lt (nnn : Imm12) {s : State} (h : s.sp.val < 16) :
    exec (.call nnn) s = .next (endJump (pushWord s (s.pc + 2) h) (addressOf nnn)) := dif_pos h

theorem exec_call_of_eq (nnn : Imm12) {s : State} (h : s.sp.val = 16) :
    exec (.call nnn) s = .next (raiseFault s .stackOverflow) := dif_neg (by omega)

theorem exec_ret_of_pos {s : State} (h : 0 < s.sp.val) :
    exec .ret s = .next (endJump (popWord s h).1 (popWord s h).2) := dif_pos h

theorem exec_ret_of_eq {s : State} (h : s.sp.val = 0) :
    exec .ret s = .next (raiseFault s .stackUnderflow) := dif_neg (by omega)

/-! ### Their effects -/

/-- The sum stays below 2^16, so nothing is reduced (R128). -/
theorem toNat_addressOf_add_extendByte (nnn : Imm12) (b : Byte) :
    (addressOf nnn + extendByte b).toNat = nnn.toNat + b.toNat := by
  have hn : nnn.toNat < 4096 := nnn.isLt
  have hb : b.toNat < 256 := b.isLt
  have he : (extendByte b).toNat = b.toNat := BitVec.toNat_setWidth_of_le (by decide)
  rw [BitVec.toNat_add, toNat_addressOf, he]
  omega

theorem pushWord_stack (s : State) (w : Word) (h : s.sp.val < 16) (k : Fin 16) :
    (pushWord s w h).stack[k] = if k.val = s.sp.val then w else s.stack[k] := by
  simp only [pushWord, Fin.getElem_fin, Vector.getElem_set, eq_comm]

/-- A return right after a call: it pops the word pushed and leaves the stack as deep as before (R32). -/
theorem exec_ret_endJump_pushWord (s : State) (w target : Word) (h : s.sp.val < 16) :
    exec .ret (endJump (pushWord s w h) target) = .next { s with pc := w, stack := (pushWord s w h).stack } := by
  rw [exec_ret_of_pos (Nat.succ_pos s.sp.val)]
  simp [popWord, pushWord, endJump]

/-! ### The obligations -/

/-- Settles O31: the sum is not reduced. -/
theorem jumpWithOffsetAddsV0 : Obligations.JumpWithOffsetAddsV0 :=
  fun nnn s => ⟨_, exec_jpV0 nnn s, toNat_addressOf_add_extendByte nnn (reg s 0), rfl⟩

/-- Settles O32: a push then a jump, or the fault. -/
theorem callPushesReturnAddress : Obligations.CallPushesReturnAddress :=
  fun nnn s =>
    ⟨fun h => ⟨_, exec_call_of_lt nnn h, toNat_addressOf nnn, rfl, pushWord_stack s (s.pc + 2) h, rfl⟩,
      fun h => ⟨_, exec_call_of_eq nnn h, rfl, rfl, rfl⟩⟩

/-- Settles O33: a pop into `PC`, or the fault. -/
theorem returnPopsNewestEntry : Obligations.ReturnPopsNewestEntry := by
  refine fun s => ⟨fun k hk => ?_, fun h => ⟨_, exec_ret_of_eq h, rfl, rfl, rfl⟩⟩
  refine ⟨_, exec_ret_of_pos (by omega), ?_, ?_, rfl⟩
  · simp [popWord, hk]
  · simp [popWord, hk]

/-- Settles O34: the return pops what the call pushed, and a live slot is not the one pushed to. -/
theorem returnAfterCallComesBack : Obligations.ReturnAfterCallComesBack := by
  intro nnn s h
  refine ⟨_, _, exec_call_of_lt nnn h, exec_ret_endJump_pushWord s (s.pc + 2) (addressOf nnn) h, rfl, ?_⟩
  intro k hk
  exact (pushWord_stack s (s.pc + 2) h k).trans (if_neg (by omega))

/-- Settles O36: a word no row selects is `UNKNOWN`, and that is a no-op. -/
theorem unknownWordIsNop : Obligations.UnknownWordIsNop :=
  fun w s => ⟨fun h => by rw [decodeWord_of_no_row h]; exact exec_unknown w s, exec_unknown w s⟩

end Sys2Proof.Machine
end

section
/-! SUPPORT. O38, O42 and O43: the logic instructions, the shifts and the random byte (41_alu.md R157 to R159, R162 to R166). -/

namespace Sys2Proof.Machine

/-! ### How the instructions end -/

theorem exec_orReg (x y : Nibble) (s : State) :
    exec (.orReg x y) s = .next (endWrite s x (reg s x ||| reg s y)) := rfl

theorem exec_andReg (x y : Nibble) (s : State) :
    exec (.andReg x y) s = .next (endWrite s x (reg s x &&& reg s y)) := rfl

theorem exec_xorReg (x y : Nibble) (s : State) :
    exec (.xorReg x y) s = .next (endWrite s x (reg s x ^^^ reg s y)) := rfl

theorem exec_shr (x y : Nibble) (s : State) :
    exec (.shr x y) s = .next (endFlagged s x (shiftRight (shiftSource s x y)) (lowBit (shiftSource s x y))) := rfl

theorem exec_shl (x y : Nibble) (s : State) :
    exec (.shl x y) s = .next (endFlagged s x (shiftLeft (shiftSource s x y)) (highBit (shiftSource s x y))) := rfl

theorem exec_rnd (x : Nibble) (nn : Byte) (s : State) :
    exec (.rnd x nn) s = .next (rndWith (Config.randByte s.draws) x nn s) := rfl

theorem reg_endWrite_same (s : State) (x : Nibble) (b : Byte) : reg (endWrite s x b) x = b := by
  rw [reg_endWrite, if_pos rfl]

theorem reg_endWrite_ne (s : State) (x : Nibble) (b : Byte) (j : Nibble) (h : j ≠ x) :
    reg (endWrite s x b) j = reg s j := by
  rw [reg_endWrite, if_neg h]

theorem reg_rndWith (r : Byte) (x : Nibble) (nn : Byte) (s : State) (j : Nibble) :
    reg (rndWith r x nn s) j = if j = x then r &&& nn else reg s j := reg_setReg ..

/-! ### The shifts as numbers -/

theorem toNat_shiftSource (s : State) (x y : Nibble) :
    (shiftSource s x y).toNat = if s.cfg.shiftSource = .vx then (reg s x).toNat else (reg s y).toNat := by
  unfold shiftSource
  cases s.cfg.shiftSource <;> rfl

theorem toNat_shiftRight (b : Byte) : (shiftRight b).toNat = b.toNat / 2 := by
  have hb : b.toNat < 256 := b.isLt
  have h : (shiftRight b).toNat = (b.toNat >>> 1) % 256 := BitVec.toNat_ofNat ..
  rw [h, Nat.shiftRight_eq_div_pow]
  omega

theorem toNat_shiftLeft (b : Byte) : (shiftLeft b).toNat = 2 * b.toNat % 256 := by
  have h : (shiftLeft b).toNat = (b.toNat <<< 1) % 256 := BitVec.toNat_ofNat ..
  rw [h, Nat.shiftLeft_eq]
  omega

theorem lowBit_eq (b : Byte) : lowBit b = decide (b.toNat % 2 = 1) := by
  simp [lowBit, BitVec.getLsbD, Nat.testBit_zero]

theorem highBit_eq (b : Byte) : highBit b = decide (128 ≤ b.toNat) := BitVec.msb_eq_decide b

/-! ### The obligations -/

/-- Settles O38: each ends as one write of the bitwise result. -/
theorem logicWorksBitByBit : Obligations.LogicWorksBitByBit := by
  intro x y s
  refine ⟨⟨_, exec_orReg x y s, fun k => ?_, reg_endWrite_ne s x _, endWrite_onlyRegsPc ..⟩,
    ⟨_, exec_andReg x y s, fun k => ?_, reg_endWrite_ne s x _, endWrite_onlyRegsPc ..⟩,
    ⟨_, exec_xorReg x y s, fun k => ?_, reg_endWrite_ne s x _, endWrite_onlyRegsPc ..⟩⟩
  · rw [reg_endWrite_same, BitVec.getLsbD_or]
  · rw [reg_endWrite_same, BitVec.getLsbD_and]
  · rw [reg_endWrite_same, BitVec.getLsbD_xor]

/-- Settles O42: each ends with the bit shifted out as its flag; the source is read once, from the old state. -/
theorem shiftsWriteBitOut : Obligations.ShiftsWriteBitOut := by
  intro x y s b hb
  rw [← toNat_shiftSource] at hb
  have hlt : b < 256 := hb ▸ (shiftSource s x y).isLt
  refine ⟨⟨_, exec_shr x y s, fun j => ?_, endFlagged_onlyRegsPc ..⟩,
    ⟨_, exec_shl x y s, fun j => ?_, endFlagged_onlyRegsPc ..⟩⟩
  · rw [lowBit_eq, toNat_reg_endFlagged, toNat_shiftRight, ← hb]
    congr 1
    split_ifs <;> omega
  · rw [highBit_eq, toNat_reg_endFlagged, toNat_shiftLeft, ← hb]
    congr 1
    split_ifs <;> omega

/-- Settles O43: the byte answered is masked and written, and the request counted. -/
theorem randomByteUnderMask : Obligations.RandomByteUnderMask :=
  fun x nn s => ⟨_, exec_rnd x nn s, reg_rndWith (Config.randByte s.draws) x nn s, rfl⟩

end Sys2Proof.Machine
end

section
/-! SUPPORT. O54 and O55: the key skips and the timer transfers (44_keys_timers.md R220 to R225). -/

namespace Sys2Proof.Machine

theorem exec_skipKey (x : Nibble) (s : State) : exec (.skipKey x) s = .next (endSkip s (keyDown s x)) := rfl

theorem exec_skipNotKey (x : Nibble) (s : State) : exec (.skipNotKey x) s = .next (endSkip s (!keyDown s x)) := rfl

theorem exec_readDelay (x : Nibble) (s : State) : exec (.readDelay x) s = .next (endWrite s x s.dt) := rfl

theorem exec_writeDelay (x : Nibble) (s : State) :
    exec (.writeDelay x) s = .next { s with dt := reg s x, pc := s.pc + 2 } := rfl

theorem exec_writeSound (x : Nibble) (s : State) :
    exec (.writeSound x) s = .next { s with st := reg s x, pc := s.pc + 2 } := rfl

/-- The end of a skip on a condition that fails: the branches exchanged. -/
theorem endSkip_not (s : State) (b : Bool) :
    endSkip s (!b) = { s with pc := if b = true then s.pc + 2 else s.pc + 4 } := by
  cases b <;> rfl

/-- Settles O54: both end as a skip on the same key. -/
theorem keySkipsTestLatch : Obligations.KeySkipsTestLatch :=
  fun x s => ⟨(exec_skipKey x s).trans (congrArg _ (endSkip_onlyPc s _)),
    (exec_skipNotKey x s).trans (congrArg _ (endSkip_not s _))⟩

/-- Settles O55: each transfer is one write. -/
theorem timerTransfers : Obligations.TimerTransfers :=
  fun x s => ⟨⟨_, exec_readDelay x s, fun j => reg_endWrite s x j s.dt, endWrite_onlyRegsPc ..⟩,
    exec_writeDelay x s, exec_writeSound x s⟩

end Sys2Proof.Machine
end

section
/-! SUPPORT. O45 to O49: the arithmetic on `I` and the transfers between registers and memory (42_index_memory.md R182 to R187). -/

namespace Sys2Proof.Machine

/-! ### What these instructions execute -/

theorem exec_addI (x : Nibble) (s : State) :
    exec (.addI x) s = .next (endNext { s with i := s.i + extendByte (reg s x) }) := rfl

theorem exec_ldGlyph (x : Nibble) (s : State) :
    exec (.ldGlyph x) s = .next (endNext { s with i := BitVec.ofNat 16 ((reg s x).toNat * 5) }) := rfl

/-- `s` after `bytes` were stored from `I` on. -/
def storeAtI (s : State) (bytes : List Byte) : State := { s with mem := Memory.writeBlock s.mem s.i.toNat bytes }

theorem exec_storeBcd (x : Nibble) (s : State) :
    exec (.storeBcd x) s = .next (guardBlock s 3 (endNext (storeAtI s (bcdDigits (reg s x))))) := rfl

theorem exec_storeRegs (x : Nibble) (s : State) :
    exec (.storeRegs x) s = .next (guardBlock s (x.toNat + 1)
      (endNext (advanceI (storeAtI s (regBlock s (x.toNat + 1))) (x.toNat + 1)))) := rfl

theorem exec_loadRegs (x : Nibble) (s : State) :
    exec (.loadRegs x) s = .next (guardBlock s (x.toNat + 1)
      (endNext (advanceI (loadBlock s s.i.toNat (x.toNat + 1)) (x.toNat + 1)))) := rfl

theorem exec_storeBcd_inside (x : Nibble) {s : State} (h : s.i.toNat + 2 ≤ 4095) :
    exec (.storeBcd x) s = .next (endNext (storeAtI s (bcdDigits (reg s x)))) := by
  rw [exec_storeBcd, guardBlock_inside (.inr (by omega))]

theorem exec_storeBcd_outside (x : Nibble) {s : State} (h : s.i.toNat + 2 > 4095) :
    exec (.storeBcd x) s = .next (raiseFault s .outOfBoundsFetch) := by
  rw [exec_storeBcd, guardBlock_outside (by omega)]

theorem exec_storeRegs_inside (x : Nibble) {s : State} (h : s.i.toNat + x.toNat ≤ 4095) :
    exec (.storeRegs x) s =
      .next (endNext (advanceI (storeAtI s (regBlock s (x.toNat + 1))) (x.toNat + 1))) := by
  rw [exec_storeRegs, guardBlock_inside (.inr (by omega))]

theorem exec_storeRegs_outside (x : Nibble) {s : State} (h : s.i.toNat + x.toNat > 4095) :
    exec (.storeRegs x) s = .next (raiseFault s .outOfBoundsFetch) := by
  rw [exec_storeRegs, guardBlock_outside (by omega)]

theorem exec_loadRegs_inside (x : Nibble) {s : State} (h : s.i.toNat + x.toNat ≤ 4095) :
    exec (.loadRegs x) s =
      .next (endNext (advanceI (loadBlock s s.i.toNat (x.toNat + 1)) (x.toNat + 1))) := by
  rw [exec_loadRegs, guardBlock_inside (.inr (by omega))]

theorem exec_loadRegs_outside (x : Nibble) {s : State} (h : s.i.toNat + x.toNat > 4095) :
    exec (.loadRegs x) s = .next (raiseFault s .outOfBoundsFetch) := by
  rw [exec_loadRegs, guardBlock_outside (by omega)]

/-! ### `I` and the block in numbers -/

/-- `Fx1E` wraps at 2^16 (R182). -/
theorem toNat_add_extendByte (a : Word) (b : Byte) : (a + extendByte b).toNat = (a.toNat + b.toNat) % 65536 := by
  have he : (extendByte b).toNat = b.toNat := BitVec.toNat_setWidth_of_le (by decide)
  rw [BitVec.toNat_add, he]

/-- Five times a byte fits in `I` (R184). -/
theorem toNat_ofNat_mul_five (b : Byte) : (BitVec.ofNat 16 (b.toNat * 5)).toNat = b.toNat * 5 := by
  have hb : b.toNat < 256 := b.isLt
  rw [BitVec.toNat_ofNat]
  omega

/-- A block inside memory does not carry `I` past 2^16 (R186, R187). -/
theorem toNat_advanceI_i (s : State) (x : Nibble) (h : s.i.toNat + x.toNat ≤ 4095) :
    (advanceI s (x.toNat + 1)).i.toNat =
      if s.cfg.loadStoreAdvancesI = true then s.i.toNat + x.toNat + 1 else s.i.toNat := by
  rw [advanceI_i, apply_ite BitVec.toNat, BitVec.toNat_ofNat]
  congr 1
  omega

theorem read_storeAtI (s : State) (bytes : List Byte) (k : Nat) (h : k < bytes.length) :
    Memory.read (storeAtI s bytes).mem (s.i.toNat + k) = bytes.getD k 0 := by
  rw [storeAtI, Memory.read_writeBlock, if_pos (by omega), Nat.add_sub_cancel_left]

theorem read_storeAtI_outside (s : State) (bytes : List Byte) (a : Nat)
    (h : ¬ (s.i.toNat ≤ a ∧ a < s.i.toNat + bytes.length)) :
    Memory.read (storeAtI s bytes).mem a = Memory.read s.mem a := by
  rw [storeAtI, Memory.read_writeBlock, if_neg h]

theorem read_storeAtI_regBlock (s : State) (x j : Nibble) (h : j.toNat ≤ x.toNat) :
    Memory.read (storeAtI s (regBlock s (x.toNat + 1))).mem (s.i.toNat + j.toNat) = reg s j := by
  have hlen := regBlock_length s (x.toNat + 1) x.isLt
  rw [read_storeAtI _ _ _ (by omega), regBlock_getD _ _ _ (by omega)]

/-- A decimal digit, or the hundreds of a byte, fits in a byte (R185). -/
theorem toNat_ofNat_byte {n : Nat} (h : n < 256) : (BitVec.ofNat 8 n).toNat = n := by
  rw [BitVec.toNat_ofNat, Nat.mod_eq_of_lt h]

/-! ### The obligations -/

/-- Settles O45: each ends with one write of `I`. -/
theorem indexArithmetic : Obligations.IndexArithmetic :=
  fun x s => ⟨⟨_, exec_addI x s, toNat_add_extendByte s.i (reg s x), rfl⟩,
    ⟨_, exec_ldGlyph x s, toNat_ofNat_mul_five (reg s x), rfl⟩⟩

/-- Settles O46: the three digits are a block stored at `I`, or the access faults. -/
theorem bcdStoresThreeDigits : Obligations.BcdStoresThreeDigits := by
  refine fun x s => ⟨fun h => ?_, fun h => ⟨_, exec_storeBcd_outside x h, rfl, rfl, rfl⟩⟩
  have hb : (reg s x).toNat < 256 := (reg s x).isLt
  have hlen : (bcdDigits (reg s x)).length = 3 := rfl
  refine ⟨_, exec_storeBcd_inside x h, ?_, ?_, ?_, fun a ha => ?_, rfl⟩
  · rw [endNext_mem, ← Nat.add_zero s.i.toNat, read_storeAtI _ _ 0 (by omega)]
    exact toNat_ofNat_byte (by omega)
  · rw [endNext_mem, read_storeAtI _ _ 1 (by omega)]
    exact toNat_ofNat_byte (by omega)
  · rw [endNext_mem, read_storeAtI _ _ 2 (by omega)]
    exact toNat_ofNat_byte (by omega)
  · exact read_storeAtI_outside s _ a (by omega)

/-- Settles O47: the registers are a block stored at `I`. -/
theorem storeRegistersFillsBlock : Obligations.StoreRegistersFillsBlock := by
  intro x s h
  have hlen := regBlock_length s (x.toNat + 1) x.isLt
  refine ⟨_, exec_storeRegs_inside x h, fun j hj => ?_, fun a ha => ?_, ?_, ?_⟩
  · rw [endNext_mem, advanceI_mem, read_storeAtI_regBlock s x j hj]
  · rw [endNext_mem, advanceI_mem, read_storeAtI_outside _ _ _ (by omega)]
  · exact toNat_advanceI_i (storeAtI s _) x h
  · rw [advanceI_onlyI]; rfl

/-- Settles O48: the block at `I` is loaded into the registers. -/
theorem loadRegistersReadsBlock : Obligations.LoadRegistersReadsBlock := by
  intro x s h
  refine ⟨_, exec_loadRegs_inside x h, fun j => ?_, ?_, ?_⟩
  · rw [reg_endNext, reg_advanceI, reg_loadBlock s _ _ x.isLt]
    simp only [Nat.lt_succ_iff]
  · rw [loadBlock_onlyRegs]
    exact toNat_advanceI_i _ x h
  · rw [advanceI_onlyI, loadBlock_onlyRegs]; rfl

/-- Settles O49: each register comes back from the address it was stored at, by O47 and O48. -/
theorem loadAfterStoreRestores : Obligations.LoadAfterStoreRestores := by
  intro x s v h
  obtain ⟨t, ht, hstored, -, -, -⟩ := storeRegistersFillsBlock x s h
  obtain ⟨u, hu, hloaded, -, hframe⟩ := loadRegistersReadsBlock x { t with i := s.i, v := v } h
  refine ⟨t, u, ht, hu, fun j hj => ?_, ?_⟩
  · rw [hloaded j, if_pos hj]
    exact hstored j hj
  · rw [hframe]

end Sys2Proof.Machine
end

section
/-! SUPPORT. O29, O22 and O23: the canonical form of memory determines it, and what reset leaves there (10_state.md R50 to R52, 70_reset_and_hazards.md R310). -/

namespace Sys2Proof.Machine

/-! ### A canonical memory is determined by what it reads -/

/-- In a memory without two cells at one address, a listed cell is what its address reads. -/
theorem Memory.read_of_mem {m : List Host.Cell} {a : Nat} {b : Byte} (hm : (m.map Prod.fst).Pairwise (· < ·))
    (h : (a, b) ∈ m) : Memory.read m a = b := by
  induction m with
  | nil => cases h
  | cons e rest ih =>
    obtain ⟨k, v⟩ := e
    rw [List.map_cons, List.pairwise_cons] at hm
    rcases List.mem_cons.mp h with heq | hrest
    · cases heq
      exact if_pos rfl
    · have hlt : k < a := hm.1 a (List.mem_map_of_mem hrest)
      exact (if_neg hlt.ne).trans (ih hm.2 hrest)

theorem Memory.read_of_not_mem {m : List Host.Cell} {a : Nat} (h : ∀ b, (a, b) ∉ m) :
    Memory.read m a = Memory.unlisted a := by
  induction m with
  | nil => rfl
  | cons e rest ih =>
    obtain ⟨k, v⟩ := e
    have hk : k ≠ a := fun hk => h v (hk ▸ List.mem_cons_self)
    exact (if_neg hk).trans (ih fun b hb => h b (List.mem_cons_of_mem _ hb))

/-- The cells of a canonical memory are exactly the bytes that differ from the unlisted ones. -/
theorem Memory.mem_iff_read {m : List Host.Cell} (hm : Memory.wf m) (a : Nat) (b : Byte) :
    (a, b) ∈ m ↔ a < Config.memSize ∧ b ≠ Memory.unlisted a ∧ Memory.read m a = b := by
  refine ⟨fun h => ⟨(hm.2 _ h).1, (hm.2 _ h).2, Memory.read_of_mem hm.1 h⟩, fun ⟨_, hne, hread⟩ => ?_⟩
  by_contra hnot
  have hnone : ∀ c, (a, c) ∉ m := fun c hc => hnot (hread ▸ Memory.read_of_mem hm.1 hc ▸ hc)
  exact hne (hread ▸ Memory.read_of_not_mem hnone)

/-- Settles O29: two canonical memories that read alike list the same cells, in the same order. -/
theorem canonicalMemoriesReadAlikeEqual : Obligations.CanonicalMemoriesReadAlikeEqual := by
  intro m m' hm hm' hread
  have hp : m.Pairwise (fun c d => c.1 < d.1) := List.pairwise_map.mp hm.1
  have hp' : m'.Pairwise (fun c d => c.1 < d.1) := List.pairwise_map.mp hm'.1
  have hmem : ∀ c : Host.Cell, c ∈ m ↔ c ∈ m' := by
    rintro ⟨a, b⟩
    rw [Memory.mem_iff_read hm, Memory.mem_iff_read hm']
    exact and_congr_right fun ha => by rw [hread a ha]
  have hnodup {l : List Host.Cell} (hl : l.Pairwise (fun c d => c.1 < d.1)) : l.Nodup :=
    hl.imp fun hlt heq => (heq ▸ hlt).ne rfl
  have hperm := (List.perm_ext_iff_of_nodup (hnodup hp) (hnodup hp')).mpr hmem
  exact hperm.eq_of_pairwise (fun c d _ _ h h' => absurd h h'.asymm) hp hp'

/-! ### Memory after reset -/

theorem Memory.unlisted_eq_zero {a : Nat} (h : 80 ≤ a) : Memory.unlisted a = 0 :=
  List.getD_eq_default _ _ h

theorem resetWith_mem (cfg : Params) (font rom : List Byte) : (resetWith cfg font rom).mem =
    Memory.writeBlock (Memory.writeBlock [] 0 (font.take 80)) 0x200 (rom.take 3584) := rfl

theorem wf_resetWith_mem (cfg : Params) (font rom : List Byte) : Memory.wf (resetWith cfg font rom).mem := by
  have hfont : (font.take 80).length ≤ 80 := List.length_take_le ..
  have hrom : (rom.take 3584).length ≤ 3584 := List.length_take_le ..
  rw [resetWith_mem]
  exact Memory.wf_writeBlock _ _ _ (Memory.wf_writeBlock _ _ _ Memory.wf_nil (by unfold Config.memSize; omega))
    (by unfold Config.memSize; omega)

/-- The font below 80, the image from 0x200 on as far as it is kept, and zero elsewhere (R310). -/
theorem read_resetWith_mem (cfg : Params) (font rom : List Byte) (hfont : font.length = 80) (a : Nat) :
    Memory.read (resetWith cfg font rom).mem a =
      if a < 80 then font.getD a 0
      else if 0x200 ≤ a ∧ a - 0x200 < min rom.length 3584 then rom.getD (a - 0x200) 0 else 0 := by
  rw [resetWith_mem, Memory.read_writeBlock, Memory.read_writeBlock, List.take_of_length_le hfont.le,
    List.length_take, hfont]
  by_cases hlow : a < 80
  · rw [if_pos hlow, if_neg (by omega), if_pos (by omega), Nat.sub_zero]
  · rw [if_neg hlow]
    by_cases himage : 0x200 ≤ a ∧ a - 0x200 < min rom.length 3584
    · rw [if_pos himage, if_pos (by omega), List.getD_eq_getElem?_getD, List.getD_eq_getElem?_getD,
        List.getElem?_take_of_lt (by omega)]
    · rw [if_neg himage, if_neg (by omega), if_neg (by omega)]
      exact Memory.unlisted_eq_zero (by omega)

theorem reg_reset (j : Nibble) : reg State.reset j = 0 := Vector.getElem_replicate ..

theorem pixel_replicate_zero (y : Fin 32) (x : Fin 64) : pixel (Vector.replicate 32 0) y x = false := by
  simp [pixel]

/-- Settles O22: memory by the two block writes, everything else by the definition of reset. -/
theorem resetLoadsFontAndImage : Obligations.ResetLoadsFontAndImage :=
  fun cfg font rom hfont => ⟨fun a _ => read_resetWith_mem cfg font rom hfont a, wf_resetWith_mem cfg font rom, rfl,
    reg_reset, rfl, rfl, rfl, rfl, rfl, rfl, rfl, rfl, rfl, rfl, rfl, pixel_replicate_zero⟩

/-- Settles O23: the default font written over itself leaves every byte as it was, so the canonical memory is the empty list (O29). -/
theorem resetIsEmptyImageReset : Obligations.ResetIsEmptyImageReset := by
  have hmem : (resetWith Config.params Config.font []).mem = [] := by
    refine canonicalMemoriesReadAlikeEqual _ _ (wf_resetWith_mem ..) Memory.wf_nil fun a _ => ?_
    rw [read_resetWith_mem _ _ _ rfl]
    split_ifs with hlow himage
    · rfl
    · exact absurd himage.2 (by simp)
    · exact (Memory.unlisted_eq_zero (by omega)).symm
  exact congrArg (fun m => { State.reset with mem := m }) hmem

end Sys2Proof.Machine
end

section
/-! SUPPORT. O13 and O50 to O53: the packed view, the clear, and the sprite as a set of covered pixels (10_state.md R53, R54, 43_display.md R200 to R204). -/

namespace Sys2Proof.Machine

/-! ### Pixels and the packed view -/

/-- Two framebuffers with the same pixels are equal. -/
theorem framebuffer_ext {f g : Framebuffer} (h : ∀ y x, pixel f y x = pixel g y x) : f = g :=
  Vector.ext fun y hy => BitVec.eq_of_getLsbD_eq fun x hx => h ⟨y, hy⟩ ⟨x, hx⟩

theorem packedView_length (fb : Framebuffer) : (packedView fb).length = 256 := by
  rw [packedView, List.length_map, List.length_range]

theorem packedView_getD (fb : Framebuffer) {k : Nat} (hk : k < 256) : (packedView fb).getD k 0 = packedByte fb k := by
  simp [packedView, List.getD_eq_getElem?_getD, hk]

/-- Bit `7 - j` of a packed byte is the pixel `j` places right of its first (R54). -/
theorem getLsbD_packedByte (fb : Framebuffer) (k j : Nat) (hj : j < 8) : (packedByte fb k).getLsbD (7 - j) =
    pixel fb (Fin.ofNat 32 (k / 8)) (Fin.ofNat 64 (8 * (k % 8) + j)) := by
  refine (BitVec.getLsbD_ofBoolListBE (i := 7 - j)).trans ?_
  interval_cases j <;> rfl

/-- The bit at the place of a pixel in a list of bytes laid out as the packed view (R54). -/
def bitAt (bytes : List Byte) (y : Fin 32) (x : Fin 64) : Bool :=
  (bytes.getD (8 * y.val + x.val / 8) 0).getLsbD (7 - x.val % 8)

theorem bitAt_packedView (fb : Framebuffer) (y : Fin 32) (x : Fin 64) : bitAt (packedView fb) y x = pixel fb y x := by
  have hy := y.isLt
  have hx := x.isLt
  have hrow : Fin.ofNat 32 ((8 * y.val + x.val / 8) / 8) = y := Fin.ext (by simp only [Fin.ofNat]; omega)
  have hcol : Fin.ofNat 64 (8 * ((8 * y.val + x.val / 8) % 8) + x.val % 8) = x :=
    Fin.ext (by simp only [Fin.ofNat]; omega)
  rw [bitAt, packedView_getD fb (by omega), getLsbD_packedByte fb _ _ (by omega), hrow, hcol]

/-- Settles O13: the bytes of the view hold the pixels in order. -/
theorem packedViewHoldsPixels : Obligations.PackedViewHoldsPixels :=
  fun fb => ⟨packedView_length fb, bitAt_packedView fb⟩

theorem exec_cls (s : State) :
    exec .cls s = .next (endNext { s with fb := Vector.replicate 32 0, dirty := true }) := rfl

/-- Settles O50: a framebuffer of zero rows has no pixel on. -/
theorem clearTurnsPixelsOff : Obligations.ClearTurnsPixelsOff :=
  fun s => ⟨_, exec_cls s, pixel_replicate_zero, rfl⟩

/-! ### Inverting a set of pixels -/

/-- A bit for each pixel of the display. -/
abbrev View := Fin 32 → Fin 64 → Bool

/-- `new` is `old` with the covered pixels inverted, and the collision tells whether one of them was on (R202). -/
structure Inverts (covers old new : View) (coll coll' : Bool) : Prop where
  pixels : ∀ y x, new y x = (old y x ^^ covers y x)
  collision : coll' = true ↔ coll = true ∨ ∃ y x, old y x = true ∧ covers y x = true

theorem Inverts.none (old : View) (coll : Bool) : Inverts (fun _ _ => false) old old coll coll :=
  ⟨by simp, by simp⟩

/-- Two inversions in a row that cover no pixel together invert the union. -/
theorem Inverts.trans {first second both v v' v'' : View} {c c' c'' : Bool} (h : Inverts first v v' c c')
    (h' : Inverts second v' v'' c' c'') (hdisj : ∀ y x, ¬ (first y x = true ∧ second y x = true))
    (hboth : ∀ y x, both y x = (first y x || second y x)) : Inverts both v v'' c c'' := by
  refine ⟨fun y x => ?_, ?_⟩
  · rw [h'.pixels, h.pixels, hboth, Bool.xor_assoc]
    have := hdisj y x
    cases hf : first y x <;> cases hs : second y x <;> simp_all
  · have hsecond : ∀ y x, (v' y x = true ∧ second y x = true) ↔ (v y x = true ∧ second y x = true) := by
      intro y x
      refine and_congr_left fun hs => ?_
      have hf : first y x = false := Bool.eq_false_iff.mpr fun hf => hdisj y x ⟨hf, hs⟩
      rw [h.pixels, hf, Bool.xor_false]
    simp only [h'.collision, h.collision, hsecond, hboth, Bool.or_eq_true, and_or_left, exists_or, or_assoc]

/-- An inversion answers one view and one collision. -/
theorem Inverts.unique {covers v new new' : View} {c d d' : Bool} (h : Inverts covers v new c d)
    (h' : Inverts covers v new' c d') : new = new' ∧ d = d' := by
  refine ⟨funext fun y => funext fun x => ?_, ?_⟩
  · rw [h.pixels, h'.pixels]
  · rw [Bool.eq_iff_iff, h.collision, h'.collision]

/-! ### The sprite as the pixels it covers -/

/-- How far right of column `x0` the column `x` lies on the torus (R200). -/
def columnFrom (x0 : Nat) (x : Fin 64) : Nat := (x.val + 64 - x0) % 64

/-- How far below row `y0` the row `y` lies on the torus (R200). -/
def rowFrom (y0 : Nat) (y : Fin 32) : Nat := (y.val + 32 - y0 % 32) % 32

/-- The pixels under the 1 bits of the columns `cs` of the row byte `b` drawn on row `py` from column `x0`. -/
def columnsCover (py : Fin 32) (x0 : Nat) (b : Byte) (cs : List Nat) : View := fun y x =>
  decide (y = py) && (decide (columnFrom x0 x ∈ cs) && b.getLsbD (7 - columnFrom x0 x))

/-- The pixels under the 1 bits of a whole row byte. -/
def rowCovers (py : Fin 32) (x0 : Nat) (b : Byte) : View := fun y x =>
  decide (y = py) && (decide (columnFrom x0 x < 8) && b.getLsbD (7 - columnFrom x0 x))

/-- The pixels under the 1 bits of the row bytes `rows` drawn from row `y0`, column `x0`. -/
def rowsCover (x0 y0 : Nat) (rows : List Byte) : View := fun y x =>
  decide (rowFrom y0 y < rows.length) &&
    (decide (columnFrom x0 x < 8) && (rows.getD (rowFrom y0 y) 0).getLsbD (7 - columnFrom x0 x))

theorem eq_ofNat_iff_columnFrom {x0 c : Nat} (hx0 : x0 < 64) (hc : c < 8) (x : Fin 64) :
    x = Fin.ofNat 64 (x0 + c) ↔ columnFrom x0 x = c := by
  have hx := x.isLt
  rw [Fin.ext_iff, columnFrom]
  simp only [Fin.ofNat]
  omega

theorem blitPixel_inverts (py : Fin 32) {x0 c : Nat} (hx0 : x0 < 64) (hc : c < 8) (b : Byte) (acc : Blit) :
    Inverts (columnsCover py x0 b [c]) (pixel acc.1) (pixel (blitPixel py x0 b acc c).1) acc.2
      (blitPixel py x0 b acc c).2 := by
  have hcol := eq_ofNat_iff_columnFrom hx0 hc
  by_cases hb : b.getLsbD (7 - c) = true
  · have hcovers : ∀ y x, columnsCover py x0 b [c] y x = decide (y = py ∧ x = Fin.ofNat 64 (x0 + c)) := by
      intro y x
      generalize Fin.ofNat 64 (x0 + c) = px at hcol
      by_cases h : columnFrom x0 x = c <;> simp [columnsCover, hcol, h, hb]
    simp only [blitPixel, hb, if_true]
    refine ⟨fun y x => ?_, ?_⟩
    · rw [pixel_togglePixel, hcovers]
    · simp only [hcovers, Bool.or_eq_true, decide_eq_true_eq]
      refine or_congr_right ⟨fun h => ⟨py, _, h, rfl, rfl⟩, ?_⟩
      rintro ⟨y, x, h, rfl, rfl⟩
      exact h
  · have hcovers : columnsCover py x0 b [c] = fun _ _ => false := by
      funext y x
      by_cases h : columnFrom x0 x = c <;> simp [columnsCover, h, hb]
    simp only [blitPixel, hb, hcovers]
    exact Inverts.none ..

theorem foldl_blitPixel_inverts (py : Fin 32) {x0 : Nat} (hx0 : x0 < 64) (b : Byte) (cs : List Nat)
    (hcs : ∀ c ∈ cs, c < 8) (hnodup : cs.Nodup) (acc : Blit) :
    Inverts (columnsCover py x0 b cs) (pixel acc.1) (pixel (cs.foldl (blitPixel py x0 b) acc).1) acc.2
      (cs.foldl (blitPixel py x0 b) acc).2 := by
  induction cs generalizing acc with
  | nil =>
    have hcovers : columnsCover py x0 b [] = fun _ _ => false := by funext y x; simp [columnsCover]
    rw [hcovers]
    exact Inverts.none ..
  | cons c cs ih =>
    obtain ⟨hc, hcs⟩ := List.forall_mem_cons.mp hcs
    obtain ⟨hnotin, hnodup⟩ := List.nodup_cons.mp hnodup
    refine (blitPixel_inverts py hx0 hc b acc).trans (ih hcs hnodup _) (fun y x => ?_) fun y x => ?_
    · simp only [columnsCover, Bool.and_eq_true, decide_eq_true_eq, List.mem_singleton]
      rintro ⟨⟨-, rfl, -⟩, -, hin, -⟩
      exact hnotin hin
    · simp only [columnsCover, List.mem_cons, List.not_mem_nil, or_false, Bool.decide_or, Bool.and_or_distrib_left,
        Bool.and_or_distrib_right]

/-- One row of a sprite inverts the pixels it covers (R202). -/
theorem blitRow_inverts (py : Fin 32) {x0 : Nat} (hx0 : x0 < 64) (b : Byte) (acc : Blit) :
    Inverts (rowCovers py x0 b) (pixel acc.1) (pixel (blitRow py x0 b acc).1) acc.2 (blitRow py x0 b acc).2 := by
  have hall : ∀ n : Nat, n ∈ [0, 1, 2, 3, 4, 5, 6, 7] ↔ n < 8 := fun n => List.mem_range (n := 8)
  have hcovers : rowCovers py x0 b = columnsCover py x0 b [0, 1, 2, 3, 4, 5, 6, 7] := by
    funext y x
    rw [rowCovers, columnsCover, decide_eq_decide.mpr (hall _)]
  rw [hcovers]
  exact foldl_blitPixel_inverts py hx0 b _ (fun c hc => (hall c).mp hc) (by decide) acc

/-- A pixel lies under the first row of a sprite or under the rows after it, never under both (R200: the rows wrap, and there are at most 32). -/
theorem rowsCover_cons (x0 y0 : Nat) (b : Byte) (rest : List Byte) (hlen : rest.length < 32) (py : Fin 32)
    (hpy : py.val = y0 % 32) (y : Fin 32) (x : Fin 64) :
    rowsCover x0 y0 (b :: rest) y x = (rowCovers py x0 b y x || rowsCover x0 (y0 + 1) rest y x) ∧
    ¬ (rowCovers py x0 b y x = true ∧ rowsCover x0 (y0 + 1) rest y x = true) := by
  have hy := y.isLt
  by_cases h : y = py
  · subst h
    have hrow : rowFrom y0 y = 0 := by rw [rowFrom]; omega
    have hnext : ¬ rowFrom (y0 + 1) y < rest.length := by rw [rowFrom]; omega
    simp [rowsCover, rowCovers, hrow, hnext]
  · have hval : y.val ≠ y0 % 32 := fun hval => h (Fin.ext (hval.trans hpy.symm))
    have hrow : rowFrom y0 y = rowFrom (y0 + 1) y + 1 := by rw [rowFrom, rowFrom]; omega
    simp [rowsCover, rowCovers, h, hrow]

/-- The rows of a sprite of at most 32 rows invert the pixels they cover (R202). -/
theorem blitRows_inverts {x0 : Nat} (hx0 : x0 < 64) (y0 : Nat) (rows : List Byte) (hlen : rows.length ≤ 32)
    (acc : Blit) :
    Inverts (rowsCover x0 y0 rows) (pixel acc.1) (pixel (blitRows x0 y0 rows acc).1) acc.2
      (blitRows x0 y0 rows acc).2 := by
  induction rows generalizing y0 acc with
  | nil =>
    have hcovers : rowsCover x0 y0 [] = fun _ _ => false := by funext y x; simp [rowsCover]
    rw [hcovers]
    exact Inverts.none ..
  | cons b rest ih =>
    rw [List.length_cons] at hlen
    have hcons := rowsCover_cons x0 y0 b rest (by omega) (Fin.ofNat 32 y0) rfl
    exact (blitRow_inverts (Fin.ofNat 32 y0) hx0 b acc).trans (ih (y0 + 1) (by omega) _)
      (fun y x => (hcons y x).2) fun y x => (hcons y x).1

/-! ### The draw -/

/-- `s` after a sprite was drawn: the framebuffer and `DIRTY`, last `VF`, then signal `NEXT` (R202). -/
def endDraw (s : State) (blit : Blit) : State := endNext (setFlag { s with fb := blit.1, dirty := true } blit.2)

theorem exec_drw (x y n : Nibble) (s : State) :
    exec (.drw x y n) s = .next (guardBlock s n.toNat (endDraw s (drawSprite x y n s))) := rfl

theorem exec_drw_inside (x y : Nibble) {n : Nibble} {s : State} (h : n.toNat = 0 ∨ s.i.toNat + n.toNat ≤ 4096) :
    exec (.drw x y n) s = .next (endDraw s (drawSprite x y n s)) := by
  rw [exec_drw, guardBlock_inside h]

theorem reg_endDraw (s : State) (blit : Blit) (j : Nibble) :
    reg (endDraw s blit) j = if j = 0xF then flagByte blit.2 else reg s j := reg_setReg ..

theorem flagByte_eq_zero_or_one (b : Bool) : flagByte b = 0 ∨ flagByte b = 1 := by
  cases b <;> decide

theorem flagByte_eq_one_iff (b : Bool) : flagByte b = 1 ↔ b = true := by
  cases b <;> decide

theorem spriteCovers_eq_rowsCover (x y n : Nibble) (s : State) : Safety.spriteCovers x y n s =
    rowsCover ((reg s x).toNat % 64) ((reg s y).toNat % 32) (Memory.readBlock s.mem s.i.toNat n.toNat) := by
  funext py px
  rw [Safety.spriteCovers, rowsCover, Memory.readBlock_length, Bool.and_assoc, rowFrom, Nat.mod_mod]
  by_cases h : (py.val + 32 - (reg s y).toNat % 32) % 32 < n.toNat
  · rw [Memory.readBlock_getD _ _ _ _ h]; rfl
  · rw [decide_eq_false h, Bool.false_and, Bool.false_and]

theorem drawSprite_inverts (x y n : Nibble) (s : State) : Inverts (Safety.spriteCovers x y n s) (pixel s.fb)
    (pixel (drawSprite x y n s).1) false (drawSprite x y n s).2 := by
  have hn := n.isLt
  rw [spriteCovers_eq_rowsCover]
  exact blitRows_inverts (by omega) _ _ (by rw [Memory.readBlock_length]; omega) (s.fb, false)

/-- What a draw covers depends on the registers of its origin, on `I` and on memory only. -/
theorem spriteCovers_congr {x y n : Nibble} {s t : State} (hx : reg t x = reg s x) (hy : reg t y = reg s y)
    (hi : t.i = s.i) (hm : t.mem = s.mem) : Safety.spriteCovers x y n t = Safety.spriteCovers x y n s := by
  rw [spriteCovers_eq_rowsCover, spriteCovers_eq_rowsCover, hx, hy, hi, hm]

/-- Settles O51: the blit inverts the covered pixels, and `VF` is the flag of its collision. -/
theorem drawInvertsCoveredPixels : Obligations.DrawInvertsCoveredPixels := by
  intro x y n s h
  have hinv := drawSprite_inverts x y n s
  have hflag := reg_endDraw s (drawSprite x y n s) 0xF
  rw [if_pos rfl] at hflag
  refine ⟨_, exec_drw_inside x y h, hinv.pixels, ?_, ?_, fun j hj => ?_, rfl⟩
  · rw [hflag]
    exact flagByte_eq_zero_or_one _
  · rw [hflag, flagByte_eq_one_iff, hinv.collision]
    exact or_iff_right Bool.false_ne_true
  · rw [reg_endDraw, if_neg hj]

/-- Settles O53: the second draw covers the same pixels, so it inverts them back (O51 twice). -/
theorem secondDrawRestores : Obligations.SecondDrawRestores := by
  intro x y n s hx hy h
  obtain ⟨t, ht, htfb, -, -, htreg, htframe⟩ := drawInvertsCoveredPixels x y n s h
  have hti : t.i = s.i := by rw [htframe]
  have htm : t.mem = s.mem := by rw [htframe]
  obtain ⟨u, hu, hufb, -, hucoll, -, -⟩ := drawInvertsCoveredPixels x y n t (by rwa [hti])
  rw [spriteCovers_congr (htreg x hx) (htreg y hy) hti htm] at hufb hucoll
  refine ⟨t, u, ht, hu, framebuffer_ext fun py px => ?_, hucoll.trans ?_⟩
  · rw [hufb, htfb, Bool.xor_assoc, Bool.xor_self, Bool.xor_false]
  · refine exists_congr fun py => exists_congr fun px => and_congr_left fun hc => ?_
    rw [htfb, hc, Bool.xor_true, Bool.not_eq_true']

/-! ### The byte form of the blit -/

theorem bytes_ext {l l' : List Byte} (hl : l.length = 256) (hl' : l'.length = 256) (h : bitAt l = bitAt l') :
    l = l' := by
  refine List.ext_getElem (hl.trans hl'.symm) fun k hk hk' => BitVec.eq_of_getLsbD_eq fun j hj => ?_
  have hbit := congrFun (congrFun h ⟨k / 8, by omega⟩) ⟨8 * (k % 8) + (7 - j), by omega⟩
  simp only [bitAt] at hbit
  have hindex : 8 * (k / 8) + (8 * (k % 8) + (7 - j)) / 8 = k := by omega
  have hplace : 7 - (8 * (k % 8) + (7 - j)) % 8 = j := by omega
  rw [hindex, hplace, List.getD_eq_getElem _ _ hk, List.getD_eq_getElem _ _ hk'] at hbit
  exact hbit

/-- The pixels under the 1 bits of the part `p` written into byte `k` of the packed view. -/
def byteCovers (k : Nat) (p : Byte) : View := fun y x =>
  decide (8 * y.val + x.val / 8 = k) && p.getLsbD (7 - x.val % 8)

theorem blitByte_length (acc : List Byte × Bool) (k : Nat) (p : Byte) :
    (Safety.blitByte acc k p).1.length = acc.1.length := List.length_set ..

/-- A nonzero part of a byte has a bit. -/
theorem and_ne_zero_iff (a b : Byte) : ((a &&& b) != 0) = true ↔
    ∃ j < 8, a.getLsbD (7 - j) = true ∧ b.getLsbD (7 - j) = true := by
  rw [bne_iff_ne]
  refine ⟨fun h => ?_, fun ⟨j, _, ha, hb⟩ h => ?_⟩
  · by_contra hnone
    refine h (BitVec.eq_of_getLsbD_eq fun i hi => ?_)
    have hi' : 7 - (7 - i) = i := by omega
    have hbit : (a.getLsbD i && b.getLsbD i) = false :=
      Bool.eq_false_iff.mpr fun hab => hnone ⟨7 - i, by omega, hi'.symm ▸ Bool.and_eq_true_iff.mp hab⟩
    exact BitVec.getLsbD_and.trans (hbit.trans BitVec.getLsbD_zero.symm)
  · have hbit := congrArg (fun v => v.getLsbD (7 - j)) h
    simp [ha, hb] at hbit

theorem blitByte_inverts {acc : List Byte × Bool} {k : Nat} (hk : k < 256) (hlen : acc.1.length = 256) (p : Byte) :
    Inverts (byteCovers k p) (bitAt acc.1) (bitAt (Safety.blitByte acc k p).1) acc.2 (Safety.blitByte acc k p).2 := by
  refine ⟨fun y x => ?_, ?_⟩
  · by_cases h : 8 * y.val + x.val / 8 = k
    · simp [bitAt, Safety.blitByte, byteCovers, h, hlen, hk]
    · simp [bitAt, Safety.blitByte, byteCovers, h, Ne.symm h]
  · simp only [Safety.blitByte, Bool.or_eq_true, and_ne_zero_iff]
    refine or_congr_right ⟨?_, ?_⟩
    · rintro ⟨j, hj, ha, hp⟩
      refine ⟨⟨k / 8, by omega⟩, ⟨8 * (k % 8) + j, by omega⟩, ?_⟩
      have hindex : 8 * (k / 8) + (8 * (k % 8) + j) / 8 = k := by omega
      have hplace : 7 - (8 * (k % 8) + j) % 8 = 7 - j := by omega
      simp only [bitAt, byteCovers, hindex, hplace, decide_true, Bool.true_and]
      exact ⟨ha, hp⟩
    · rintro ⟨y, x, ha, hc⟩
      simp only [byteCovers, Bool.and_eq_true, decide_eq_true_eq] at hc
      exact ⟨x.val % 8, by omega, hc.1 ▸ ha, hc.2⟩

theorem blitRowBytes_length (py x0 : Nat) (b : Byte) (acc : List Byte × Bool) :
    (Safety.blitRowBytes py x0 b acc).1.length = acc.1.length := by
  unfold Safety.blitRowBytes
  split_ifs
  · exact blitByte_length ..
  · exact (blitByte_length ..).trans (blitByte_length ..)

/-- The left part of a row byte: the pixels of the row in the byte of column `x0` (R203). -/
theorem byteCovers_left {x0 : Nat} (hx0 : x0 < 64) (py : Fin 32) (b : Byte) (y : Fin 32) (x : Fin 64) :
    byteCovers (8 * py.val + x0 / 8) (b >>> (x0 % 8)) y x =
      (decide (x.val / 8 = x0 / 8) && rowCovers py x0 b y x) := by
  have hx := x.isLt
  have hy : y = py ↔ y.val = py.val := Fin.ext_iff
  rw [byteCovers, rowCovers, BitVec.getLsbD_ushiftRight]
  by_cases hbyte : 8 * y.val + x.val / 8 = 8 * py.val + x0 / 8
  · rw [decide_eq_true hbyte, decide_eq_true (hy.mpr (by omega)), decide_eq_true (by omega : x.val / 8 = x0 / 8)]
    by_cases hplace : x0 % 8 ≤ x.val % 8
    · have hcol : columnFrom x0 x = x.val % 8 - x0 % 8 := by rw [columnFrom]; omega
      rw [hcol, decide_eq_true (by omega), show 7 - (x.val % 8 - x0 % 8) = x0 % 8 + (7 - x.val % 8) by omega]
      rfl
    · have hcol : ¬ columnFrom x0 x < 8 := by rw [columnFrom]; omega
      rw [decide_eq_false hcol, BitVec.getLsbD_of_ge _ _ (by omega)]
      rfl
  · have hapart : ¬ (x.val / 8 = x0 / 8 ∧ y = py) := by rw [hy]; omega
    rw [decide_eq_false hbyte, ← Bool.and_assoc (decide _) (decide _), ← Bool.decide_and, decide_eq_false hapart]
    rfl

/-- The right part of a row byte: the pixels of the row in the byte after it, on the torus (R203). -/
theorem byteCovers_right {x0 : Nat} (hx0 : x0 < 64) (py : Fin 32) (b : Byte) (y : Fin 32)
    (x : Fin 64) : byteCovers (8 * py.val + (x0 / 8 + 1) % 8) (b <<< (8 - x0 % 8)) y x =
      (decide (x.val / 8 = (x0 / 8 + 1) % 8) && rowCovers py x0 b y x) := by
  have hx := x.isLt
  have hy : y = py ↔ y.val = py.val := Fin.ext_iff
  rw [byteCovers, rowCovers, BitVec.getLsbD_shiftLeft]
  by_cases hbyte : 8 * y.val + x.val / 8 = 8 * py.val + (x0 / 8 + 1) % 8
  · rw [decide_eq_true hbyte, decide_eq_true (hy.mpr (by omega)),
      decide_eq_true (by omega : x.val / 8 = (x0 / 8 + 1) % 8), decide_eq_true (by omega : 7 - x.val % 8 < 8)]
    by_cases hplace : x.val % 8 < x0 % 8
    · have hcol : columnFrom x0 x = x.val % 8 + 8 - x0 % 8 := by rw [columnFrom]; omega
      rw [decide_eq_false (by omega : ¬ 7 - x.val % 8 < 8 - x0 % 8), hcol,
        decide_eq_true (by omega : x.val % 8 + 8 - x0 % 8 < 8),
        show 7 - (x.val % 8 + 8 - x0 % 8) = 7 - x.val % 8 - (8 - x0 % 8) by omega]
      rfl
    · have hcol : ¬ columnFrom x0 x < 8 := by rw [columnFrom]; omega
      rw [decide_eq_false hcol, decide_eq_true (by omega : 7 - x.val % 8 < 8 - x0 % 8)]
      rfl
  · have hapart : ¬ (x.val / 8 = (x0 / 8 + 1) % 8 ∧ y = py) := by rw [hy]; omega
    rw [decide_eq_false hbyte, ← Bool.and_assoc (decide _) (decide _), ← Bool.decide_and, decide_eq_false hapart]
    rfl

/-- The pixels of a row lie in the byte of column `x0` or, if `x0` is no multiple of 8, in the next one. -/
theorem byte_of_rowCovers {x0 : Nat} (hx0 : x0 < 64) {py : Fin 32} {b : Byte} {y : Fin 32} {x : Fin 64}
    (h : rowCovers py x0 b y x = true) : x.val / 8 = x0 / 8 ∨ x0 % 8 ≠ 0 ∧ x.val / 8 = (x0 / 8 + 1) % 8 := by
  have hx := x.isLt
  simp only [rowCovers, Bool.and_eq_true, decide_eq_true_eq] at h
  obtain ⟨-, hcol, -⟩ := h
  rw [columnFrom] at hcol
  omega

/-- The parts of a row byte invert the pixels of the row (R203). -/
theorem blitRowBytes_inverts {x0 : Nat} (hx0 : x0 < 64) (py : Fin 32) (b : Byte) {acc : List Byte × Bool}
    (hlen : acc.1.length = 256) : Inverts (rowCovers py x0 b) (bitAt acc.1)
      (bitAt (Safety.blitRowBytes py.val x0 b acc).1) acc.2 (Safety.blitRowBytes py.val x0 b acc).2 := by
  have hpy := py.isLt
  have hleft := blitByte_inverts (k := 8 * py.val + x0 / 8) (by omega) hlen (b >>> (x0 % 8))
  have hcases (y : Fin 32) (x : Fin 64) := byte_of_rowCovers hx0 (py := py) (b := b) (y := y) (x := x)
  by_cases hr : x0 % 8 = 0
  · have hcovers : rowCovers py x0 b = byteCovers (8 * py.val + x0 / 8) (b >>> (x0 % 8)) := by
      funext y x
      rw [byteCovers_left hx0]
      cases hc : rowCovers py x0 b y x
      · rw [Bool.and_false]
      · rw [decide_eq_true ((hcases y x hc).resolve_right fun h => h.1 hr)]
        rfl
    rw [Safety.blitRowBytes, if_pos hr, hcovers]
    exact hleft
  · have hright := blitByte_inverts (k := 8 * py.val + (x0 / 8 + 1) % 8) (by omega)
      ((blitByte_length acc (8 * py.val + x0 / 8) (b >>> (x0 % 8))).trans hlen) (b <<< (8 - x0 % 8))
    rw [Safety.blitRowBytes, if_neg hr]
    refine hleft.trans hright (fun y x => ?_) fun y x => ?_
    · rw [byteCovers_left hx0, byteCovers_right hx0]
      simp only [Bool.and_eq_true, decide_eq_true_eq]
      omega
    · rw [byteCovers_left hx0, byteCovers_right hx0, ← Bool.and_or_distrib_right, ← Bool.decide_or]
      cases hc : rowCovers py x0 b y x
      · rw [Bool.and_false]
      · rw [decide_eq_true ((hcases y x hc).imp_right And.right)]
        rfl

/-- One row: the packed view of the pixel form is the byte form on the packed view. -/
theorem packedView_blitRow {x0 : Nat} (hx0 : x0 < 64) (py : Fin 32) (b : Byte) (acc : Blit) :
    Safety.blitRowBytes py.val x0 b (packedView acc.1, acc.2) =
      (packedView (blitRow py x0 b acc).1, (blitRow py x0 b acc).2) := by
  have hview (fb : Framebuffer) : bitAt (packedView fb) = pixel fb :=
    funext fun y => funext fun x => bitAt_packedView fb y x
  have hlen := packedView_length acc.1
  have hbytes := blitRowBytes_inverts hx0 py b (acc := (packedView acc.1, acc.2)) hlen
  rw [hview] at hbytes
  obtain ⟨hpixels, hcoll⟩ := hbytes.unique (blitRow_inverts py hx0 b acc)
  refine Prod.ext (bytes_ext ((blitRowBytes_length ..).trans hlen) (packedView_length _) ?_) hcoll
  rw [hpixels, hview]

/-- Settles O52: row by row, both forms invert the same pixels. -/
theorem blitEqualsByteForm : Obligations.BlitEqualsByteForm := by
  intro fb coll x0 y0 rows hx0
  induction rows generalizing fb coll y0 with
  | nil => exact ⟨rfl, rfl⟩
  | cons b rest ih =>
    have hrow := packedView_blitRow hx0 (Fin.ofNat 32 y0) b (fb, coll)
    have hrest := ih (blitRow (Fin.ofNat 32 y0) x0 b (fb, coll)).1
      (blitRow (Fin.ofNat 32 y0) x0 b (fb, coll)).2 (y0 + 1)
    rw [← hrow] at hrest
    exact hrest

end Sys2Proof.Machine
end

section
/-! SUPPORT. O6, O7 and O24 to O28: what every instruction does to `PC` and the fault state, what it writes and what it reads (10_state.md R21, R28, 20_memory.md R63, 60_exceptions.md R277). The instructions that can fault are `00EE`, `2nnn`, `Dxyn`, `Fx33`, `Fx55` and `Fx65`. -/

namespace Sys2Proof.Machine

open Sys2Proof.Safety

/-! ### Under a fault condition, and without one -/

/-- The one fault an instruction has is raised under its condition. -/
theorem exec_of_fault {i : Instr} {s : State} {k : FaultKind} (h : faultOf i s = some k) :
    exec i s = .next (raiseFault s k) := by
  cases i with
  | ret =>
    obtain ⟨hsp, ⟨⟩⟩ := Option.ite_none_right_eq_some.mp h
    exact exec_ret_of_eq hsp
  | call nnn =>
    obtain ⟨hsp, ⟨⟩⟩ := Option.ite_none_right_eq_some.mp h
    exact exec_call_of_eq nnn hsp
  | drw x y n =>
    obtain ⟨hout, ⟨⟩⟩ := Option.ite_none_right_eq_some.mp h
    rw [exec_drw, guardBlock_outside (by omega)]
  | storeBcd x =>
    obtain ⟨hout, ⟨⟩⟩ := Option.ite_none_right_eq_some.mp h
    exact exec_storeBcd_outside x hout
  | storeRegs x =>
    obtain ⟨hout, ⟨⟩⟩ := Option.ite_none_right_eq_some.mp h
    exact exec_storeRegs_outside x hout
  | loadRegs x =>
    obtain ⟨hout, ⟨⟩⟩ := Option.ite_none_right_eq_some.mp h
    exact exec_loadRegs_outside x hout
  | _ => cases h

theorem not_of_ite_none {p : Prop} [Decidable p] {k : FaultKind} (h : (if p then some k else none) = none) : ¬ p := by
  intro hp
  rw [if_pos hp] at h
  cases h

theorem exec_ret_of_noFault {s : State} (h : faultOf .ret s = none) :
    ∃ hsp, exec .ret s = .next (endJump (popWord s hsp).1 (popWord s hsp).2) :=
  ⟨_, exec_ret_of_pos (Nat.pos_of_ne_zero (not_of_ite_none h))⟩

theorem exec_call_of_noFault {nnn : Imm12} {s : State} (h : faultOf (.call nnn) s = none) :
    ∃ hsp, exec (.call nnn) s = .next (endJump (pushWord s (s.pc + 2) hsp) (addressOf nnn)) := by
  have hsp : s.sp.val ≠ 16 := not_of_ite_none h
  exact ⟨by omega, exec_call_of_lt nnn (by omega)⟩

theorem exec_drw_of_noFault {x y n : Nibble} {s : State} (h : faultOf (.drw x y n) s = none) :
    exec (.drw x y n) s = .next (endDraw s (drawSprite x y n s)) := by
  have hin := not_of_ite_none h
  exact exec_drw_inside x y (by omega)

theorem exec_storeBcd_of_noFault {x : Nibble} {s : State} (h : faultOf (.storeBcd x) s = none) :
    exec (.storeBcd x) s = .next (endNext (storeAtI s (bcdDigits (reg s x)))) :=
  exec_storeBcd_inside x (Nat.le_of_not_lt (not_of_ite_none h))

theorem exec_storeRegs_of_noFault {x : Nibble} {s : State} (h : faultOf (.storeRegs x) s = none) :
    exec (.storeRegs x) s = .next (endNext (advanceI (storeAtI s (regBlock s (x.toNat + 1))) (x.toNat + 1))) :=
  exec_storeRegs_inside x (Nat.le_of_not_lt (not_of_ite_none h))

theorem exec_loadRegs_of_noFault {x : Nibble} {s : State} (h : faultOf (.loadRegs x) s = none) :
    exec (.loadRegs x) s = .next (endNext (advanceI (loadBlock s s.i.toNat (x.toNat + 1)) (x.toNat + 1))) :=
  exec_loadRegs_inside x (Nat.le_of_not_lt (not_of_ite_none h))

/-- Settles O7: the fault record and `RUN` are all that raising a fault writes. -/
theorem faultWritesOnlyRecord : Obligations.FaultWritesOnlyRecord :=
  fun _ _ _ h => exec_of_fault h

/-! ### `PC` -/

theorem addressOf_eq_ofNat (nnn : Imm12) : addressOf nnn = BitVec.ofNat 16 nnn.toNat :=
  (BitVec.ofNat_toNat ..).symm

/-- Settles O6: the jumps, the return, the skips and `Fx0A` by their own ends, every other instruction by signal `NEXT`. -/
theorem programCounterAsTabled : Obligations.ProgramCounterAsTabled := by
  intro i s h
  cases i with
  | ret =>
    obtain ⟨hsp, hexec⟩ := exec_ret_of_noFault h
    refine ⟨_, hexec, ?_, rfl, rfl⟩
    have hlt : s.sp.val - 1 < 16 := by omega
    simp [pcAfter, popWord, List.getD_eq_getElem?_getD, hlt]
  | call nnn =>
    obtain ⟨hsp, hexec⟩ := exec_call_of_noFault h
    exact ⟨_, hexec, addressOf_eq_ofNat nnn, rfl, rfl⟩
  | jp nnn => exact ⟨_, exec_jp nnn s, addressOf_eq_ofNat nnn, rfl, rfl⟩
  | jpV0 nnn =>
    refine ⟨_, exec_jpV0 nnn s, ?_, rfl, rfl⟩
    rw [endJump_pc, pcAfter, ← toNat_addressOf_add_extendByte, BitVec.ofNat_toNat, BitVec.setWidth_eq]
  | skipEqImm | skipNeImm | skipEqReg | skipNeReg | skipKey =>
    refine ⟨_, rfl, ?_, endSkip_run .., endSkip_fault ..⟩
    simp [pcAfter, keyDown]
  | skipNotKey x =>
    exact ⟨_, exec_skipNotKey x s, congrArg State.pc (endSkip_not ..), endSkip_run .., endSkip_fault ..⟩
  | drw => exact ⟨_, exec_drw_of_noFault h, rfl, rfl, rfl⟩
  | storeBcd => exact ⟨_, exec_storeBcd_of_noFault h, rfl, rfl, rfl⟩
  | storeRegs =>
    refine ⟨_, exec_storeRegs_of_noFault h, ?_⟩
    rw [advanceI_onlyI]
    exact ⟨rfl, rfl, rfl⟩
  | loadRegs =>
    refine ⟨_, exec_loadRegs_of_noFault h, ?_⟩
    rw [advanceI_onlyI, loadBlock_onlyRegs]
    exact ⟨rfl, rfl, rfl⟩
  | _ => exact ⟨_, rfl, rfl, rfl, rfl⟩

/-! ### Registers -/

/-- An end with a flag writes `Vx` and `VF` only. -/
theorem reg_endFlagged_ne (s : State) (x : Nibble) (b : Byte) (flag : Bool) {j : Nibble}
    (h : (j == x || j == 0xF) = false) :
    reg (endFlagged s x b flag) j = reg s j := by
  obtain ⟨hx, hF⟩ := Bool.or_eq_false_iff.mp h
  rw [reg_endFlagged, if_neg (ne_of_beq_false hF), if_neg (ne_of_beq_false hx)]

/-- Settles O24: a fault writes no register, nor does an instruction the table gives none. -/
theorem registersWrittenAsTabled : Obligations.RegistersWrittenAsTabled := by
  intro i s t j h hj
  cases hf : faultOf i s with
  | some k => cases (exec_of_fault hf).symm.trans h; rfl
  | none =>
    cases i with
    | ldImm x _ | addImm x _ | ldReg x _ | orReg x _ | andReg x _ | xorReg x _ | rnd x _ | readDelay x =>
      cases h
      exact (reg_setReg ..).trans (if_neg (ne_of_beq_false hj))
    | addReg x _ | subReg x _ | shr x _ | subnReg x _ | shl x _ =>
      cases h
      exact reg_endFlagged_ne s x _ _ hj
    | skipEqImm | skipNeImm | skipEqReg | skipNeReg | skipKey | skipNotKey =>
      cases h
      exact reg_endSkip ..
    | drw =>
      cases (exec_drw_of_noFault hf).symm.trans h
      exact (reg_endDraw ..).trans (if_neg (ne_of_beq_false hj))
    | storeRegs =>
      cases (exec_storeRegs_of_noFault hf).symm.trans h
      exact reg_advanceI ..
    | loadRegs x =>
      cases (exec_loadRegs_of_noFault hf).symm.trans h
      have hjx : ¬ j.toNat < x.toNat + 1 := mt Nat.le_of_lt_succ (of_decide_eq_false hj)
      exact (reg_advanceI ..).trans ((reg_loadBlock s _ _ x.isLt j).trans (if_neg hjx))
    | ret =>
      obtain ⟨_, hexec⟩ := exec_ret_of_noFault hf
      cases hexec.symm.trans h
      rfl
    | call =>
      obtain ⟨_, hexec⟩ := exec_call_of_noFault hf
      cases hexec.symm.trans h
      rfl
    | storeBcd =>
      cases (exec_storeBcd_of_noFault hf).symm.trans h
      rfl
    | _ => cases h; rfl

/-! ### The rest of the state -/

/-- What leaves everything outside `V`, `PC`, `MEM`, `RUN` and `FAULT` as it is stays within every rule. -/
theorem otherStateKept_of_frame {i : Instr} {s t : State}
    (h : t = { s with v := t.v, pc := t.pc, mem := t.mem, run := t.run, fault := t.fault }) : OtherStateKept i s t := by
  rw [h]
  constructor <;> simp

/-- Settles O25: most instructions write `V`, `PC` and memory only; each of the others writes what its rule names. -/
theorem otherStateWrittenAsNamed : Obligations.OtherStateWrittenAsNamed := by
  intro i s t h
  cases hf : faultOf i s with
  | some k => cases (exec_of_fault hf).symm.trans h; exact otherStateKept_of_frame rfl
  | none =>
    cases i with
    | skipEqImm | skipNeImm | skipEqReg | skipNeReg | skipKey | skipNotKey =>
      cases h
      rw [endSkip_onlyPc]
      exact otherStateKept_of_frame rfl
    | cls | ldI | addI | ldGlyph | rnd | waitKey | writeDelay | writeSound =>
      cases h
      constructor <;> simp [rndWith]
    | ret =>
      obtain ⟨_, hexec⟩ := exec_ret_of_noFault hf
      cases hexec.symm.trans h
      constructor <;> simp [popWord]
    | call =>
      obtain ⟨_, hexec⟩ := exec_call_of_noFault hf
      cases hexec.symm.trans h
      constructor <;> simp [pushWord]
    | drw =>
      cases (exec_drw_of_noFault hf).symm.trans h
      constructor <;> simp [endDraw]
    | storeBcd =>
      cases (exec_storeBcd_of_noFault hf).symm.trans h
      exact otherStateKept_of_frame rfl
    | storeRegs =>
      cases (exec_storeRegs_of_noFault hf).symm.trans h
      constructor <;> simp [storeAtI]
    | loadRegs =>
      cases (exec_loadRegs_of_noFault hf).symm.trans h
      rw [loadBlock_onlyRegs]
      constructor <;> simp
    | _ => cases h; exact otherStateKept_of_frame rfl

/-! ### Memory written -/

/-- What an instruction leaves in memory: it stores nothing and keeps memory, or it stores a block of the tabled length at `I`, which lies inside memory (R63). -/
theorem exec_mem {i : Instr} {s t : State} (h : exec i s = .next t) :
    t.mem = s.mem ∨ ∃ bytes : List Byte, bytes.length = storeLength i ∧ 0 < storeLength i ∧
      s.i.toNat + bytes.length ≤ 4096 ∧ t.mem = Memory.writeBlock s.mem s.i.toNat bytes := by
  cases hf : faultOf i s with
  | some k => cases (exec_of_fault hf).symm.trans h; exact .inl rfl
  | none =>
    cases i with
    | storeBcd x =>
      have hin := not_of_ite_none hf
      cases (exec_storeBcd_of_noFault hf).symm.trans h
      exact .inr ⟨bcdDigits (reg s x), rfl, Nat.succ_pos _, show s.i.toNat + 3 ≤ 4096 by omega, rfl⟩
    | storeRegs x =>
      have hin := not_of_ite_none hf
      have hlen := regBlock_length s (x.toNat + 1) x.isLt
      cases (exec_storeRegs_of_noFault hf).symm.trans h
      exact .inr ⟨regBlock s (x.toNat + 1), hlen, Nat.succ_pos _, by omega, advanceI_mem ..⟩
    | skipEqImm | skipNeImm | skipEqReg | skipNeReg | skipKey | skipNotKey =>
      cases h
      exact .inl (endSkip_mem ..)
    | drw => cases (exec_drw_of_noFault hf).symm.trans h; exact .inl rfl
    | loadRegs =>
      cases (exec_loadRegs_of_noFault hf).symm.trans h
      rw [loadBlock_onlyRegs]
      exact .inl (advanceI_mem ..)
    | ret =>
      obtain ⟨_, hexec⟩ := exec_ret_of_noFault hf
      cases hexec.symm.trans h
      exact .inl rfl
    | call =>
      obtain ⟨_, hexec⟩ := exec_call_of_noFault hf
      cases hexec.symm.trans h
      exact .inl rfl
    | _ => cases h; exact .inl rfl

/-- Settles O26: outside the block stored, memory reads as before. -/
theorem memoryWrittenAsTabled : Obligations.MemoryWrittenAsTabled := by
  intro i s t h
  rcases exec_mem h with hmem | ⟨bytes, hlen, hpos, -, hmem⟩
  · exact ⟨fun a _ => by rw [hmem], fun _ => hmem⟩
  · refine ⟨fun a ha => ?_, fun hzero => absurd hzero hpos.ne'⟩
    rw [hmem, Memory.read_writeBlock, hlen, if_neg ha]

/-- Every instruction keeps the canonical form of memory (10_state.md R50). -/
theorem exec_keeps_wf {i : Instr} {s t : State} (h : exec i s = .next t) (hwf : Memory.wf s.mem) : Memory.wf t.mem := by
  rcases exec_mem h with hmem | ⟨bytes, -, -, hin, hmem⟩
  · rwa [hmem]
  · rw [hmem]
    exact Memory.wf_writeBlock _ _ _ hwf hin

/-! ### What an instruction does not read -/

/-- The fault table reads `SP` and `I` only. -/
theorem faultOf_congr (i : Instr) {s s' : State} (hsp : s'.sp = s.sp) (hi : s'.i = s.i) :
    faultOf i s' = faultOf i s := by
  cases i <;> simp only [faultOf, hsp, hi]

theorem drawSprite_withMem {x y n : Nibble} {s : State} {m : List Host.Cell}
    (h : ∀ a, s.i.toNat ≤ a → a < s.i.toNat + n.toNat → Memory.read m a = Memory.read s.mem a) :
    drawSprite x y n { s with mem := m } = drawSprite x y n s :=
  congrArg (fun rows => blitRows _ _ rows _) (Memory.readBlock_congr m s.mem s.i.toNat n.toNat h)

/-- A block load depends on the registers and on the bytes of the block, and writes registers only. -/
theorem loadBlock_of_agree (s s' : State) (a n : Nat) (hn : n ≤ 16) (hv : s'.v = s.v)
    (hmem : ∀ c, a ≤ c → c < a + n → Memory.read s'.mem c = Memory.read s.mem c) :
    loadBlock s' a n = { s' with v := (loadBlock s a n).v } := by
  have hloaded : (loadBlock s' a n).v = (loadBlock s a n).v := by
    refine v_ext fun j => ?_
    rw [reg_loadBlock _ _ _ hn, reg_loadBlock _ _ _ hn]
    by_cases hj : j.toNat < n
    · rw [if_pos hj, if_pos hj, hmem _ (by omega) (by omega)]
    · rw [if_neg hj, if_neg hj, reg_congr hv]
  rw [loadBlock_onlyRegs, hloaded]

theorem advanceI_eq (s : State) (n : Nat) : advanceI s n =
    { s with i := if s.cfg.loadStoreAdvancesI then BitVec.ofNat 16 (s.i.toNat + n) else s.i } := by
  rw [advanceI_onlyI, advanceI_i]

/-- Settles O27: the two loads read the block tabled for them, every other instruction reads no memory. -/
theorem memoryReadAsTabled : Obligations.MemoryReadAsTabled := by
  intro i s t m hstore hread h
  have hf' := faultOf_congr i (s' := { s with mem := m }) (s := s) rfl rfl
  cases hf : faultOf i s with
  | some k =>
    cases (exec_of_fault hf).symm.trans h
    exact exec_of_fault (hf'.trans hf)
  | none =>
    rw [hf] at hf'
    cases i with
    | storeBcd | storeRegs => cases hstore
    | drw =>
      cases (exec_drw_of_noFault hf).symm.trans h
      rw [exec_drw_of_noFault hf', drawSprite_withMem hread]
      rfl
    | loadRegs x =>
      cases (exec_loadRegs_of_noFault hf).symm.trans h
      rw [exec_loadRegs_of_noFault hf', loadBlock_of_agree s { s with mem := m } _ _ x.isLt rfl hread,
        loadBlock_onlyRegs s, advanceI_eq, advanceI_eq]
      rfl
    | ret =>
      obtain ⟨_, hexec⟩ := exec_ret_of_noFault hf
      cases hexec.symm.trans h
      exact (exec_ret_of_noFault hf').2
    | call =>
      obtain ⟨_, hexec⟩ := exec_call_of_noFault hf
      cases hexec.symm.trans h
      exact (exec_call_of_noFault hf').2
    | skipEqImm | skipNeImm | skipEqReg | skipNeReg | skipKey | skipNotKey =>
      cases h
      rw [endSkip_onlyPc]
      exact congrArg _ (endSkip_onlyPc ..)
    | _ => cases h; rfl

/-- No instruction but `Dxyn` reads the framebuffer and none reads the phase: with others it does the same to everything else, and the framebuffer it leaves is the one it finds, except after `00E0`. -/
theorem exec_withFbPhase {i : Instr} {s t : State} (f : Framebuffer) (p : Phase) (hdrw : ∀ x y n, i ≠ .drw x y n)
    (h : exec i s = .next t) : ∃ g, exec i { s with fb := f, phase := p } = .next { t with fb := g, phase := p } ∧
      (i ≠ .cls → g = f) ∧ (f = s.fb → g = t.fb) := by
  have hf' := faultOf_congr i (s' := { s with fb := f, phase := p }) (s := s) rfl rfl
  cases hf : faultOf i s with
  | some k =>
    cases (exec_of_fault hf).symm.trans h
    exact ⟨f, exec_of_fault (hf'.trans hf), fun _ => rfl, id⟩
  | none =>
    rw [hf] at hf'
    cases i with
    | cls => cases h; exact ⟨_, rfl, fun hcls => absurd rfl hcls, fun _ => rfl⟩
    | drw x y n => exact absurd rfl (hdrw x y n)
    | storeBcd =>
      cases (exec_storeBcd_of_noFault hf).symm.trans h
      exact ⟨f, exec_storeBcd_of_noFault hf', fun _ => rfl, id⟩
    | storeRegs =>
      cases (exec_storeRegs_of_noFault hf).symm.trans h
      rw [exec_storeRegs_of_noFault hf', advanceI_eq, advanceI_eq]
      exact ⟨f, rfl, fun _ => rfl, id⟩
    | loadRegs x =>
      cases (exec_loadRegs_of_noFault hf).symm.trans h
      rw [exec_loadRegs_of_noFault hf', loadBlock_of_agree s { s with fb := f, phase := p } _ _ x.isLt rfl
        fun _ _ _ => rfl, loadBlock_onlyRegs s, advanceI_eq, advanceI_eq]
      exact ⟨f, rfl, fun _ => rfl, id⟩
    | ret =>
      obtain ⟨_, hexec⟩ := exec_ret_of_noFault hf
      cases hexec.symm.trans h
      exact ⟨f, (exec_ret_of_noFault hf').2, fun _ => rfl, id⟩
    | call =>
      obtain ⟨_, hexec⟩ := exec_call_of_noFault hf
      cases hexec.symm.trans h
      exact ⟨f, (exec_call_of_noFault hf').2, fun _ => rfl, id⟩
    | skipEqImm | skipNeImm | skipEqReg | skipNeReg | skipKey | skipNotKey =>
      cases h
      rw [endSkip_onlyPc]
      exact ⟨f, congrArg _ (endSkip_onlyPc ..), fun _ => rfl, id⟩
    | _ => cases h; exact ⟨f, rfl, fun _ => rfl, id⟩

theorem exec_phase {i : Instr} {s t : State} (h : exec i s = .next t) : t.phase = s.phase := by
  obtain ⟨-, -, -, -, hphase, -, -, -⟩ := (otherStateWrittenAsNamed i s t h).sequencing
  exact hphase

/-- Settles O28: replacing the framebuffer alone, the phase staying as it is. -/
theorem framebufferReadByDrawOnly : Obligations.FramebufferReadByDrawOnly := by
  intro i s t f hdrw h
  obtain ⟨g, hexec, hkept, -⟩ := exec_withFbPhase f s.phase hdrw h
  exact ⟨g, hexec.trans (by rw [← exec_phase h]), hkept⟩

/-- No instruction reads the phase (log entry 16). -/
theorem exec_withPhase {i : Instr} {s t : State} (p : Phase) (h : exec i s = .next t) :
    exec i { s with phase := p } = .next { t with phase := p } := by
  by_cases hdrw : ∃ x y n, i = .drw x y n
  · obtain ⟨x, y, n, rfl⟩ := hdrw
    have hf' := faultOf_congr (.drw x y n) (s' := { s with phase := p }) (s := s) rfl rfl
    cases hf : faultOf (.drw x y n) s with
    | some k => cases (exec_of_fault hf).symm.trans h; exact exec_of_fault (hf'.trans hf)
    | none => cases (exec_drw_of_noFault hf).symm.trans h; exact exec_drw_of_noFault (hf'.trans hf)
  · obtain ⟨g, hexec, -, hfb⟩ := exec_withFbPhase s.fb p (fun x y n hi => hdrw ⟨x, y, n, hi⟩) h
    rw [hfb rfl] at hexec
    exact hexec

end Sys2Proof.Machine
end

section
/-! SUPPORT. O5, O8 to O12, O14 and O56: the instruction cycle, the start and the end of a frame, and the wait for a key (49_frame_scheduler.md R240 to R259, 44_keys_timers.md R232). -/

namespace Sys2Proof.Machine

/-! ### The instruction cycle -/

/-- Settles O5: both bytes are inside memory, so the fetch delivers their word. -/
theorem stepRunsDecodedInstruction : Obligations.StepRunsDecodedInstruction := by
  intro s left hr hp hw hpc
  have hf := fetchWord_eq s
  rw [if_pos (by omega)] at hf
  exact step_cycle hr hp hw hf

/-- Settles O8: the second byte is outside memory, so the fetch fails. -/
theorem fetchOutOfRangeHalts : Obligations.FetchOutOfRangeHalts := by
  intro s left hr hp hw hpc
  have hf := fetchWord_eq s
  rw [if_neg (by omega)] at hf
  exact step_noFetch hr hp hw hf

/-- Settles O14: `step` branches on `RUN` first. -/
theorem haltedOrStoppedHasNoStep : Obligations.HaltedOrStoppedHasNoStep :=
  fun s => ⟨fun h => by rw [step, h], fun h => by rw [step, h]⟩

/-! ### The start of a frame -/

theorem openBatch_of_not_wait {s : State} (h : s.wait = false) :
    openBatch s = { s with phase := .batch s.cfg.ipf } := by
  rw [openBatch, if_neg (by simp [h])]

theorem openBatch_of_no_edge {s : State} (h : s.wait = true) (hk : releasedKey s.keyPrev s.keyCur = none) :
    openBatch s = { s with phase := .batch 0 } := by
  rw [openBatch, if_pos h, releaseCheck, hk]

theorem openBatch_of_edge {s : State} {k : Nat} (h : s.wait = true) (hk : releasedKey s.keyPrev s.keyCur = some k) :
    openBatch s =
      { setReg s s.waitReg (BitVec.ofNat 8 k) with wait := false, pc := s.pc + 2, phase := .batch 0 } := by
  rw [openBatch, if_pos h, releaseCheck, hk]

/-- What opening a frame can do: a batch of `IPF` cycles, a wait that goes on, or one that is resolved (R247, R251). -/
theorem openBatch_cases (s : State) :
    (s.wait = false ∧ openBatch s = { s with phase := .batch s.cfg.ipf }) ∨
    (s.wait = true ∧ openBatch s = { s with phase := .batch 0 }) ∨
    (s.wait = true ∧ ∃ k, openBatch s =
      { setReg s s.waitReg (BitVec.ofNat 8 k) with wait := false, pc := s.pc + 2, phase := .batch 0 }) := by
  by_cases hw : s.wait = true
  · right
    cases hk : releasedKey s.keyPrev s.keyCur with
    | none => exact .inl ⟨hw, openBatch_of_no_edge hw hk⟩
    | some k => exact .inr ⟨hw, k, openBatch_of_edge hw hk⟩
  · have hw : s.wait = false := Bool.eq_false_of_not_eq_true hw
    exact .inl ⟨hw, openBatch_of_not_wait hw⟩

/-- Opening a frame enters a batch and writes no other field but `V`, `WAIT` and `PC`. -/
theorem openBatch_frame (s : State) : ∃ v wait pc n,
    openBatch s = { s with v := v, wait := wait, pc := pc, phase := .batch n } := by
  rcases openBatch_cases s with ⟨-, h⟩ | ⟨-, h⟩ | ⟨-, k, h⟩
  · exact ⟨_, _, _, _, h⟩
  · exact ⟨_, _, _, _, h⟩
  · exact ⟨_, _, _, _, h⟩

theorem not_edge_iff (prev cur : Bool) : (!(prev && !cur)) = true ↔ ¬ (prev = true ∧ cur = false) := by
  cases prev <;> cases cur <;> decide

/-- The lowest key down before and up now (R251). -/
theorem releasedKey_eq_some {prev cur : BitVec 16} {k : Nat} (hk : k < 16) (hprev : prev.getLsbD k = true)
    (hcur : cur.getLsbD k = false) (hlow : ∀ j < k, ¬ (prev.getLsbD j = true ∧ cur.getLsbD j = false)) :
    releasedKey prev cur = some k := by
  rw [releasedKey, List.find?_range_eq_some]
  exact ⟨by rw [hprev, hcur]; rfl, List.mem_range.mpr hk, fun j hj => (not_edge_iff ..).mpr (hlow j hj)⟩

theorem releasedKey_eq_none {prev cur : BitVec 16}
    (h : ∀ k < 16, ¬ (prev.getLsbD k = true ∧ cur.getLsbD k = false)) : releasedKey prev cur = none := by
  rw [releasedKey, List.find?_range_eq_none]
  exact fun k hk => (not_edge_iff ..).mpr (h k hk)

/-- Settles O9: the first shape of a step. -/
theorem frameStartTakesSamples : Obligations.FrameStartTakesSamples :=
  fun _ hr hp => step_frameStart hr hp

/-- Settles O10: the latch refreshed, then the batch opened. -/
theorem frameStartOpensBatch : Obligations.FrameStartOpensBatch :=
  fun _ _ _ hw => openBatch_of_not_wait hw

/-- Settles O11: the release check finds the lowest edge, or none. -/
theorem releaseEdgeResolvesWait : Obligations.ReleaseEdgeResolvesWait := by
  intro keys quit s hw
  refine ⟨fun k hk hprev hcur hlow => ?_, fun hnone => ?_⟩
  · refine ⟨_, openBatch_of_edge hw (releasedKey_eq_some hk hprev hcur hlow), fun j => ?_, rfl⟩
    exact reg_setReg (refreshLatch keys quit s) s.waitReg j (BitVec.ofNat 8 k)
  · exact openBatch_of_no_edge hw (releasedKey_eq_none hnone)

/-! ### The end of a frame -/

theorem present_onlyEventsDirty (s : State) :
    present s = { s with events := (present s).events, dirty := false } := by
  cases hd : s.dirty with
  | true => simp [present, hd]
  | false =>
    have h : present s = s := by rw [present, if_neg (by simp [hd])]
    rw [h, ← hd]

theorem beeps_present (s : State) : beeps (present s) = beeps s := by
  rw [beeps, beeps, present_st, present_cfg]

/-- The end of a frame, written out: present, tick, beep, stop if quit was observed (R254 to R258). -/
theorem endFrame_eq (s : State) : endFrame s =
    { s with
      dirty := false
      events := s.events ++ (if s.dirty = true then [.present s.frame (packedView s.fb)] else []) ++
        (if beeps s = true then [.beep s.frame] else [])
      dt := tickDown s.dt
      st := tickDown s.st
      run := if s.quitPending then .stopped else s.run
      phase := .frameStart
      frame := s.frame + 1 } := by
  have hevents : (tickTimers (present s)).events =
      s.events ++ (if s.dirty = true then [.present s.frame (packedView s.fb)] else []) ++
        (if beeps s = true then [.beep s.frame] else []) := by
    simp only [tickTimers, beeps_present, present_events, present_frame]
    split_ifs <;> simp
  rw [← hevents, endFrame, closeFrame, tickTimers, present_onlyEventsDirty]

theorem toNat_tickDown (t : Byte) : (tickDown t).toNat = t.toNat - 1 := by
  unfold tickDown
  split_ifs with h
  · rw [h]; rfl
  · bv_omega

theorem beeps_iff (s : State) : beeps s = true ↔ s.st.toNat ≠ 0 ∧ s.cfg.beepThreshold.toNat ≤ s.st.toNat := by
  rw [beeps, decide_eq_true_iff, ne_eq, ne_eq, BitVec.toNat_eq]
  rfl

/-- Settles O12: the end of a frame, written out. -/
theorem frameEndPresentsTicksBeeps : Obligations.FrameEndPresentsTicksBeeps := by
  intro s hr hover
  refine ⟨_, (step_batchOver hr hover).trans (congrArg _ (endFrame_eq s)), ?_, toNat_tickDown s.dt,
    toNat_tickDown s.st, ?_⟩
  · simp only [beeps_iff]
  · simp only [hr]

/-! ### Waiting for a key -/

theorem exec_waitKey (x : Nibble) (s : State) : exec (.waitKey x) s = .next { s with wait := true, waitReg := x } := rfl

/-- Settles O56: a waiting machine in a batch is at its end, whatever cycles were left. -/
theorem waitKeyHoldsAndEndsBatch : Obligations.WaitKeyHoldsAndEndsBatch := by
  refine fun x s => ⟨_, exec_waitKey x s, rfl, fun left hr hp => step_batchOver hr ?_⟩
  cases left with
  | zero => exact .inl hp
  | succ n => exact .inr ⟨n, hp, rfl⟩

end Sys2Proof.Machine
end

section
/-! SUPPORT. O16 to O21: what every step keeps, from the four shapes of a step (`step_cases`) and what an instruction writes (O6, O7, O25). -/

namespace Sys2Proof.Machine

open Sys2Proof.Safety

/-! ### What an instruction leaves to the invariants -/

/-- An instruction raises a fault or leaves `RUN` and `FAULT` alone. -/
theorem exec_run_fault {i : Instr} {s t : State} (h : exec i s = .next t) :
    (∃ k, t = raiseFault s k) ∨ t.run = s.run ∧ t.fault = s.fault := by
  cases hf : faultOf i s with
  | some k => cases (exec_of_fault hf).symm.trans h; exact .inl ⟨k, rfl⟩
  | none =>
    obtain ⟨u, hu, -, hrun, hfault⟩ := programCounterAsTabled i s hf
    cases hu.symm.trans h
    exact .inr ⟨hrun, hfault⟩

/-- If an instruction leaves the machine waiting that did not wait, it was `Fx0A` (R232). -/
theorem exec_wait {i : Instr} {s t : State} (h : exec i s = .next t) (hs : s.wait = false) (ht : t.wait = true) :
    i = .waitKey t.waitReg ∧ t = { s with wait := true, waitReg := t.waitReg } := by
  by_cases hi : ∃ x, i = .waitKey x
  · obtain ⟨x, rfl⟩ := hi
    cases h
    exact ⟨rfl, rfl⟩
  · obtain ⟨hkept, -⟩ := (otherStateWrittenAsNamed i s t h).waiting fun x hx => hi ⟨x, hx⟩
    rw [hkept, hs] at ht
    cases ht

/-! ### The invariant -/

/-- Settles O17: after reset nothing has faulted, waits or is dirty, and memory is empty. -/
theorem resetMeetsInvariant : Obligations.ResetMeetsInvariant where
  memory := Memory.wf_nil
  faultIffHalted := by decide
  waitNotHalted := by decide
  waitAtKeyWord := fun h => Bool.noConfusion h
  cleanBetweenFrames := fun _ => rfl
  stoppedIffQuit := by decide
  stoppedBetweenFrames := fun _ => rfl
  haltedInBatch := by decide
  batchNonempty := Nat.succ_pos _

/-- Inside a batch the clauses about the time between frames say only that the machine is not stopped. -/
theorem inv_of_batch {t : State} {n : Nat} (hphase : t.phase = .batch n) (hmem : Memory.wf t.mem)
    (hfault : t.fault.valid = true ↔ t.run = .halted) (hstopped : t.run ≠ .stopped)
    (hhalted : t.wait = true → t.run ≠ .halted)
    (hword : t.wait = true → ∃ w, fetchWord t = some w ∧ decodeWord w = .waitKey t.waitReg)
    (hipf : 1 ≤ t.cfg.ipf) : Inv t where
  memory := hmem
  faultIffHalted := hfault
  waitNotHalted := hhalted
  waitAtKeyWord := hword
  cleanBetweenFrames := fun h => by rw [hphase] at h; cases h
  stoppedIffQuit := fun h => by rw [hphase] at h; cases h
  stoppedBetweenFrames := fun h => absurd h hstopped
  haltedInBatch := fun _ h => by rw [hphase] at h; cases h
  batchNonempty := hipf

/-- `inv_of_batch` for a machine that does not wait. -/
theorem inv_of_batch_not_wait {t : State} {n : Nat} (hphase : t.phase = .batch n) (hmem : Memory.wf t.mem)
    (hfault : t.fault.valid = true ↔ t.run = .halted) (hstopped : t.run ≠ .stopped) (hw : t.wait = false)
    (hipf : 1 ≤ t.cfg.ipf) : Inv t :=
  have hnot : ¬ t.wait = true := Bool.eq_false_iff.mp hw
  inv_of_batch hphase hmem hfault hstopped (fun h => absurd h hnot) (fun h => absurd h hnot) hipf

theorem inv_beginFrame {s : State} (h : Inv s) (hr : s.run = .running) : Inv (beginFrame s) := by
  have hstopped : s.run ≠ .stopped := by rw [hr]; decide
  rcases openBatch_cases (refreshLatch (Config.keysIn s.frame) (Config.quitIn s.frame) s) with
    ⟨-, heq⟩ | ⟨-, heq⟩ | ⟨-, k, heq⟩
  all_goals rw [beginFrame, heq]
  · exact inv_of_batch rfl h.memory h.faultIffHalted hstopped h.waitNotHalted h.waitAtKeyWord h.batchNonempty
  · exact inv_of_batch rfl h.memory h.faultIffHalted hstopped h.waitNotHalted h.waitAtKeyWord h.batchNonempty
  · exact inv_of_batch_not_wait rfl h.memory h.faultIffHalted hstopped rfl h.batchNonempty

theorem inv_endFrame {s : State} (h : Inv s) (hr : s.run = .running) : Inv (endFrame s) := by
  have hvalid : ¬ s.fault.valid = true := fun hv => by
    have hhalted := h.faultIffHalted.mp hv
    rw [hr] at hhalted
    cases hhalted
  have hrun : (if s.quitPending = true then RunState.stopped else s.run) ≠ .halted := by
    rw [hr]
    split_ifs <;> decide
  rw [endFrame_eq]
  exact
    { memory := h.memory
      faultIffHalted := iff_of_false hvalid hrun
      waitNotHalted := fun _ => hrun
      waitAtKeyWord := h.waitAtKeyWord
      cleanBetweenFrames := fun _ => rfl
      stoppedIffQuit := fun _ => by simp [hr]
      stoppedBetweenFrames := fun _ => rfl
      haltedInBatch := fun hh => absurd hh hrun
      batchNonempty := h.batchNonempty }

theorem inv_fetchFault {s : State} {n : Nat} (h : Inv s) (hp : s.phase = .batch n) (hw : s.wait = false) :
    Inv (fetchFault s) :=
  inv_of_batch_not_wait hp h.memory (iff_of_true rfl rfl) nofun hw h.batchNonempty

/-- An instruction leaves a machine waiting only at the word of the `Fx0A` that set the wait, `PC` being held (R232). -/
theorem inv_cycle {s t : State} {w : Word} {left : Nat} (h : Inv s) (hr : s.run = .running) (hw : s.wait = false)
    (hfetch : fetchWord s = some w) (hexec : exec (decodeWord w) (enterCycle s w left) = .next t) : Inv t := by
  obtain ⟨-, -, -, -, hphase, -, hcfg, -⟩ := (otherStateWrittenAsNamed _ _ _ hexec).sequencing
  have hmem : Memory.wf t.mem := exec_keeps_wf hexec h.memory
  have hipf : 1 ≤ t.cfg.ipf := by rw [hcfg]; exact h.batchNonempty
  rcases exec_run_fault hexec with ⟨k, rfl⟩ | ⟨hrun, hfault⟩
  · exact inv_of_batch_not_wait hphase hmem (iff_of_true rfl rfl) nofun hw hipf
  · have hrun' : t.run = .running := hrun.trans hr
    refine inv_of_batch hphase hmem ?_ (by rw [hrun']; decide) (fun _ => by rw [hrun']; decide) (fun hw' => ?_) hipf
    · rw [hfault, hrun]
      exact h.faultIffHalted
    · obtain ⟨hi, ht⟩ := exec_wait hexec hw hw'
      refine ⟨w, ?_, hi⟩
      rw [← hfetch, ht]
      rfl

/-- Settles O16: each of the four shapes of a step keeps the invariant. -/
theorem stepKeepsInvariant : Obligations.StepKeepsInvariant := by
  intro s t h hstep
  obtain ⟨hr, ⟨-, rfl⟩ | ⟨-, rfl⟩ | ⟨left, hp, hw, -, rfl⟩ | ⟨left, w, -, hw, hfetch, hexec⟩⟩ := step_cases hstep
  · exact inv_beginFrame h hr
  · exact inv_endFrame h hr
  · exact inv_fetchFault h hp hw
  · exact inv_cycle h hr hw hfetch hexec

/-! ### The latch -/

theorem samplesTaken_of_batch {s : State} {n : Nat} (h : s.phase = .batch n) : samplesTaken s = s.frame := by
  rw [samplesTaken, h]

theorem samplesTaken_of_frameStart {s : State} (h : s.phase = .frameStart) : samplesTaken s = s.frame - 1 := by
  rw [samplesTaken, h]

theorem samplesTaken_of_batchOver {s : State} (h : batchOver s) : samplesTaken s = s.frame := by
  rcases h with h | ⟨n, h, -⟩
  · exact samplesTaken_of_batch h
  · exact samplesTaken_of_batch h

/-- What neither takes a sample nor touches the latch keeps the clause about it. -/
theorem latchHoldsSamples_of_kept {s t : State} (h : LatchHoldsSamples s) (hframe : s.frame ≤ t.frame)
    (hcur : t.keyCur = s.keyCur) (hprev : t.keyPrev = s.keyPrev) (htaken : samplesTaken t = samplesTaken s) :
    LatchHoldsSamples t where
  framePositive := h.framePositive.trans hframe
  current := by rw [hcur, htaken]; exact h.current
  previous := by rw [hprev, htaken]; exact h.previous

/-- The start of a frame takes the next sample. -/
theorem latchHoldsSamples_beginFrame {s : State} (h : LatchHoldsSamples s) (hp : s.phase = .frameStart) :
    LatchHoldsSamples (beginFrame s) := by
  obtain ⟨v, wait, pc, n, heq⟩ := openBatch_frame (refreshLatch (Config.keysIn s.frame) (Config.quitIn s.frame) s)
  have hcur := h.current
  rw [samplesTaken_of_frameStart hp] at hcur
  rw [beginFrame, heq]
  exact ⟨h.framePositive, (if_neg (Nat.one_le_iff_ne_zero.mp h.framePositive)).symm, hcur⟩

/-- Settles O18: the start of a frame takes the next sample, the other shapes of a step take none. -/
theorem stepKeepsLatchSamples : Obligations.StepKeepsLatchSamples := by
  intro s t h hstep
  obtain ⟨-, ⟨hp, rfl⟩ | ⟨hover, rfl⟩ | ⟨left, hp, -, -, rfl⟩ | ⟨left, w, hp, -, -, hexec⟩⟩ := step_cases hstep
  · exact latchHoldsSamples_beginFrame h hp
  · rw [endFrame_eq]
    exact latchHoldsSamples_of_kept h (Nat.le_succ _) rfl rfl (samplesTaken_of_batchOver hover).symm
  · exact latchHoldsSamples_of_kept h le_rfl rfl rfl rfl
  · obtain ⟨-, -, hcur, hprev, hphase, hframe, -, -⟩ := (otherStateWrittenAsNamed _ _ _ hexec).sequencing
    refine latchHoldsSamples_of_kept h hframe.ge hcur hprev ?_
    rw [samplesTaken_of_batch hp, samplesTaken_of_batch hphase, hframe]
    rfl

/-- Settles O19: no sample was taken, and the latch is at its reset value. -/
theorem resetLatchHoldsNoSample : Obligations.ResetLatchHoldsNoSample :=
  ⟨le_rfl, rfl, rfl⟩

/-! ### Parameters and sinks -/

/-- Settles O20: no shape of a step writes the parameters. -/
theorem stepKeepsParameters : Obligations.StepKeepsParameters := by
  intro s t hstep
  obtain ⟨-, ⟨-, rfl⟩ | ⟨-, rfl⟩ | ⟨-, -, -, -, rfl⟩ | ⟨left, w, -, -, -, hexec⟩⟩ := step_cases hstep
  · obtain ⟨v, wait, pc, n, heq⟩ := openBatch_frame (refreshLatch (Config.keysIn s.frame) (Config.quitIn s.frame) s)
    rw [beginFrame, heq]
    rfl
  · rw [endFrame_eq]
  · rfl
  · obtain ⟨-, -, -, -, -, -, hcfg, -⟩ := (otherStateWrittenAsNamed _ _ _ hexec).sequencing
    exact hcfg

/-- Settles O21: the end of a frame appends what it presents and beeps; the other shapes of a step append nothing. -/
theorem sinksHearAtFrameEndOnly : Obligations.SinksHearAtFrameEndOnly := by
  intro s t hstep
  obtain ⟨-, ⟨-, rfl⟩ | ⟨-, rfl⟩ | ⟨-, -, -, -, rfl⟩ | ⟨left, w, -, -, -, hexec⟩⟩ := step_cases hstep
  · obtain ⟨v, wait, pc, n, heq⟩ := openBatch_frame (refreshLatch (Config.keysIn s.frame) (Config.quitIn s.frame) s)
    rw [beginFrame, heq]
    exact .inl rfl
  · rw [endFrame_eq]
    cases s.dirty <;> cases beeps s <;> simp
  · exact .inl rfl
  · obtain ⟨-, -, -, -, -, -, -, hevents⟩ := (otherStateWrittenAsNamed _ _ _ hexec).sequencing
    exact .inl hevents

end Sys2Proof.Machine
end

section
/-! SUPPORT. O15: the steps of a frame do what the frame as one function does (49_frame_scheduler.md R245, R247). The one function ignores the phase and the steps count cycles in it, so the two are compared up to the phase. -/

namespace Sys2Proof.Machine

open Sys2Proof.Safety

/-! ### Running steps -/

theorem coreRun_succ {M : Host.Core} {s t : M.State} (h : M.step s = .next t) (k : Nat) :
    Host.Core.run M (k + 1) s = Host.Core.run M k t := by
  rw [Host.Core.run, h]

theorem coreRun_one {s t : State} (h : step s = .next t) : Host.Core.run Sys2Proof.core 1 s = .next t :=
  coreRun_succ (M := Sys2Proof.core) h 0

/-! ### The phase is not read inside a frame -/

/-- The state up to its phase. -/
def dropPhase (s : State) : State := { s with phase := .frameStart }

/-- The rest of a frame after its batch: steps 3 to 6, unless a fault abandoned the frame (R247). -/
def finishFrame (s : State) : State := if s.run = .halted then s else endFrame s

theorem frameWith_eq (keys : BitVec 16) (quit : Bool) (s : State) : frameWith keys quit s =
    finishFrame (if (refreshLatch keys quit s).wait then releaseCheck (refreshLatch keys quit s)
      else runBatch s.cfg.ipf (refreshLatch keys quit s)) := rfl

theorem finishFrame_of_halted {s : State} (h : s.run = .halted) : finishFrame s = s := if_pos h

theorem finishFrame_of_running {s : State} (h : s.run = .running) : finishFrame s = endFrame s :=
  if_neg (by rw [h]; decide)

theorem endFrame_withPhase (s : State) (p : Phase) : endFrame { s with phase := p } = endFrame s := by
  rw [endFrame_eq, endFrame_eq]
  rfl

theorem dropPhase_finishFrame_withPhase (s : State) (p : Phase) :
    dropPhase (finishFrame { s with phase := p }) = dropPhase (finishFrame s) := by
  by_cases h : s.run = .halted
  · rw [finishFrame_of_halted h, finishFrame, if_pos h]
    rfl
  · rw [finishFrame, finishFrame, if_neg h, if_neg h, endFrame_withPhase]

/-! ### One cycle -/

theorem instrCycle_of_noFetch {s : State} (h : fetchWord s = none) : instrCycle s = fetchFault s := by
  rw [instrCycle, h]

theorem instrCycle_of_fetch {s t : State} {w : Word} (h : fetchWord s = some w)
    (hexec : exec (decodeWord w) { s with ir := w } = .next t) : instrCycle s = t := by
  simp only [instrCycle, h, hexec]

/-- Every instruction answers a next state (O6 where it raises no fault, O7 where it does). -/
theorem exec_total (i : Instr) (s : State) : ∃ t, exec i s = .next t := by
  cases hf : faultOf i s with
  | some k => exact ⟨_, exec_of_fault hf⟩
  | none =>
    obtain ⟨t, ht, -⟩ := programCounterAsTabled i s hf
    exact ⟨t, ht⟩

theorem instrCycle_withPhase (s : State) (p : Phase) :
    instrCycle { s with phase := p } = { instrCycle s with phase := p } := by
  cases hf : fetchWord s with
  | none => rw [instrCycle_of_noFetch hf, instrCycle_of_noFetch (s := { s with phase := p }) hf]; rfl
  | some w =>
    obtain ⟨t, ht⟩ := exec_total (decodeWord w) { s with ir := w }
    rw [instrCycle_of_fetch hf ht]
    exact instrCycle_of_fetch hf (exec_withPhase p ht)

theorem runBatch_succ (n : Nat) (s : State) : runBatch (n + 1) s =
    if (instrCycle s).run = .running ∧ (instrCycle s).wait = false then runBatch n (instrCycle s)
    else instrCycle s := rfl

theorem runBatch_withPhase (n : Nat) (s : State) (p : Phase) :
    runBatch n { s with phase := p } = { runBatch n s with phase := p } := by
  induction n generalizing s with
  | zero => rfl
  | succ n ih =>
    rw [runBatch_succ, runBatch_succ, instrCycle_withPhase]
    split_ifs
    · exact ih _
    · rfl

/-- The cycle of the one function is the instruction a step runs, but for the phase. -/
theorem instrCycle_of_cycle {s t : State} {w : Word} {left : Nat} (hf : fetchWord s = some w)
    (hexec : exec (decodeWord w) (enterCycle s w left) = .next t) : instrCycle s = { t with phase := s.phase } :=
  instrCycle_of_fetch hf (exec_withPhase s.phase hexec)

/-! ### The batch and the frame -/

/-- `k` steps from `s` end a frame, halted or at the start of the next, and reach `t` up to the phase. -/
def ReachesInFrame (s t : State) (k : Nat) : Prop :=
  ∃ u, Host.Core.run Sys2Proof.core k s = .next u ∧ dropPhase u = dropPhase t ∧
    (u.run = .halted ∨ u.phase = .frameStart)

theorem reachesInFrame_endFrame {s : State} (hr : s.run = .running) (hover : batchOver s) :
    ReachesInFrame s (finishFrame s) 1 := by
  refine ⟨_, coreRun_one (step_batchOver hr hover), ?_, .inr rfl⟩
  rw [finishFrame_of_running hr]

theorem ReachesInFrame.step {s s' t : State} {k : Nat} (hstep : step s = .next s') (h : ReachesInFrame s' t k) :
    ReachesInFrame s t (k + 1) := by
  obtain ⟨u, hrun, hu⟩ := h
  exact ⟨u, (coreRun_succ (M := Sys2Proof.core) hstep k).trans hrun, hu⟩

theorem ReachesInFrame.congr {s t t' : State} {k : Nat} (h : ReachesInFrame s t k) (ht : dropPhase t = dropPhase t') :
    ReachesInFrame s t' k := by
  obtain ⟨u, hrun, hu, hend⟩ := h
  exact ⟨u, hrun, hu.trans ht, hend⟩

/-- From a batch with `n` cycles left, at most `n + 1` steps do the cycles and what follows them. -/
theorem reachesInFrame_runBatch (n : Nat) (s : State) (hr : s.run = .running) (hw : s.wait = false)
    (hp : s.phase = .batch n) : ∃ k ≤ n + 1, ReachesInFrame s (finishFrame (runBatch n s)) k := by
  induction n generalizing s with
  | zero => exact ⟨1, le_rfl, reachesInFrame_endFrame hr (.inl hp)⟩
  | succ n ih =>
    rw [runBatch_succ]
    cases hf : fetchWord s with
    | none =>
      refine ⟨1, by omega, _, coreRun_one (step_noFetch hr hp hw hf), ?_, .inl rfl⟩
      rw [instrCycle_of_noFetch hf]
      rfl
    | some w =>
      obtain ⟨t, hexec⟩ := exec_total (decodeWord w) (enterCycle s w n)
      have hstep : step s = .next t := (step_cycle hr hp hw hf).trans hexec
      have htp : t.phase = .batch n := exec_phase hexec
      rw [instrCycle_of_cycle hf hexec]
      by_cases hgo : t.run = .running ∧ t.wait = false
      · obtain ⟨k, hk, hreach⟩ := ih t hgo.1 hgo.2 htp
        refine ⟨k + 1, by omega, (hreach.step hstep).congr ?_⟩
        rw [if_pos hgo, runBatch_withPhase n t s.phase, dropPhase_finishFrame_withPhase (runBatch n t) s.phase]
      · rw [if_neg hgo]
        rcases exec_run_fault hexec with ⟨kind, rfl⟩ | ⟨hrun, -⟩
        · refine ⟨1, by omega, _, coreRun_one hstep, ?_, .inl rfl⟩
          rw [dropPhase_finishFrame_withPhase (raiseFault _ kind) s.phase, finishFrame_of_halted rfl]
        · have htr : t.run = .running := hrun.trans hr
          have htw : t.wait = true := Bool.eq_true_of_not_eq_false fun h => hgo ⟨htr, h⟩
          have hover : batchOver t := by
            cases n with
            | zero => exact .inl htp
            | succ n => exact .inr ⟨n, htp, htw⟩
          exact ⟨2, by omega, ((reachesInFrame_endFrame htr hover).step hstep).congr
            (dropPhase_finishFrame_withPhase t s.phase).symm⟩

/-- A frame that begins waiting: the release check, no batch, and the end (R247). -/
theorem reachesInFrame_releaseCheck {s : State} (hr : s.run = .running) :
    ReachesInFrame { releaseCheck s with phase := .batch 0 } (finishFrame (releaseCheck s)) 1 := by
  have hrun : (releaseCheck s).run = .running := by
    unfold releaseCheck
    split <;> exact hr
  exact (reachesInFrame_endFrame (s := { releaseCheck s with phase := .batch 0 }) hrun (.inl rfl)).congr
    (dropPhase_finishFrame_withPhase ..)

/-- Settles O15: the start of the frame, then its batch or the release check. -/
theorem stepsRealiseFrame : Obligations.StepsRealiseFrame := by
  intro s hr hp
  have hbegin := step_frameStart hr hp
  have hreach : ∃ k ≤ s.cfg.ipf + 1, ReachesInFrame (beginFrame s)
      (frameWith (Config.keysIn s.frame) (Config.quitIn s.frame) s) k := by
    rw [beginFrame, frameWith_eq]
    generalize hlatch : refreshLatch (Config.keysIn s.frame) (Config.quitIn s.frame) s = a
    have har : a.run = .running := by rw [← hlatch]; exact hr
    have hipf : a.cfg.ipf = s.cfg.ipf := by rw [← hlatch]; rfl
    by_cases hw : a.wait = true
    · rw [openBatch, if_pos hw, if_pos hw]
      exact ⟨1, by omega, reachesInFrame_releaseCheck har⟩
    · rw [if_neg hw, ← hipf, openBatch_of_not_wait (Bool.eq_false_of_not_eq_true hw)]
      obtain ⟨k, hk, h⟩ := reachesInFrame_runBatch a.cfg.ipf { a with phase := .batch a.cfg.ipf } har
        (Bool.eq_false_of_not_eq_true hw) rfl
      refine ⟨k, hk, h.congr ?_⟩
      rw [runBatch_withPhase, dropPhase_finishFrame_withPhase]
  obtain ⟨k, hk, h⟩ := hreach
  obtain ⟨u, hrun, hu, hend⟩ := h.step hbegin
  exact ⟨k + 1, u, by omega, hrun, hu, hend⟩

end Sys2Proof.Machine
end
